-- ==== Sys2Proof/Word.lean ====
section
/-! DEFINITION. The word types of the machine (spec/00_scope.md R8, R13, R14; spec/10_state.md R32; spec/30_encoding.md
R92) and the sizes that the rules themselves fix (log 1). -/
namespace Sys2Proof

/-- `NUM_V`: general registers, as many as a 4-bit field names (R8, R32, R92). -/
abbrev Config.numV : Nat := 16

/-- `NUM_KEYS`: keys, as many as a 4-bit key number names (R8, R56). -/
abbrev Config.numKeys : Nat := 16

/-- `V_WIDTH`, and the width of a memory cell and of `KK` (R8, R32, R70, R92). -/
abbrev Config.vWidth : Nat := 8

/-- `TIMER_WIDTH` (R8, R40). -/
abbrev Config.timerWidth : Nat := 8

/-- `I_WIDTH` (R8, R39). -/
abbrev Config.iWidth : Nat := 16

/-- `PC_WIDTH` (R8, R35). -/
abbrev Config.pcWidth : Nat := 16

/-- `STACK_ENTRY_WIDTH` (R8, R44). -/
abbrev Config.stackEntryWidth : Nat := 16

/-- `FONT_GLYPHS`: 16 glyphs of 5 bytes, one per hexadecimal digit (R8, R75). -/
abbrev Config.fontGlyphs : Nat := 16

/-- The bytes of one glyph (R8, R75). -/
abbrev Config.glyphBytes : Nat := 5

/-- An 8-bit value: a V register, a timer, a memory cell, an immediate `KK`. -/
abbrev Byte := BitVec 8

/-- A 16-bit value: `I`, `PC`, a stack slot, an instruction word. -/
abbrev Word := BitVec 16

/-- The 12-bit address field `NNN` of an instruction (R92). -/
abbrev Addr12 := BitVec 12

/-- The number of a V register, 0x0 to 0xF (R32). -/
abbrev Reg := Fin Config.numV

/-- The number of a key, 0x0 to 0xF (R56). -/
abbrev Key := Fin Config.numKeys

/-- VF, the register that doubles as the carry, borrow and collision flag (R42). -/
abbrev vf : Reg := 15

/-- V0, the register BNNN reads implicitly (R118). -/
abbrev v0 : Reg := 0

end Sys2Proof
end

