-- ==== Sys2Proof/Syntax.lean ====
section
/-! DEFINITION. The instructions: one constructor per row of spec/opcode_table.json, in the table's order, and the
fallback row for the unrecognized words (spec/30_encoding.md R94, R96, R103). -/
namespace Sys2Proof

/-- One instruction word, decoded; the comment gives its pattern (R94) and the rule of its meaning. -/
inductive Instr where
  /-- 0000 (R110) -/
  | nop
  /-- 00E0 (R167) -/
  | cls
  /-- 00EE (R111) -/
  | ret
  /-- 1NNN (R112) -/
  | jp (nnn : Addr12)
  /-- 2NNN (R113) -/
  | call (nnn : Addr12)
  /-- 3XKK (R114) -/
  | seImm (x : Reg) (kk : Byte)
  /-- 4XKK (R115) -/
  | sneImm (x : Reg) (kk : Byte)
  /-- 5XY0 (R116) -/
  | seReg (x y : Reg)
  /-- 6XKK (R131) -/
  | ldImm (x : Reg) (kk : Byte)
  /-- 7XKK (R132) -/
  | addImm (x : Reg) (kk : Byte)
  /-- 8XY0 (R133) -/
  | ldReg (x y : Reg)
  /-- 8XY1 (R134) -/
  | orReg (x y : Reg)
  /-- 8XY2 (R135) -/
  | andReg (x y : Reg)
  /-- 8XY3 (R136) -/
  | xorReg (x y : Reg)
  /-- 8XY4 (R137) -/
  | addReg (x y : Reg)
  /-- 8XY5 (R138) -/
  | subReg (x y : Reg)
  /-- 8XY6 (R139); `y` is decoded but not used (R102) -/
  | shr (x y : Reg)
  /-- 8XY7 (R140) -/
  | subn (x y : Reg)
  /-- 8XYE (R141); `y` is decoded but not used (R102) -/
  | shl (x y : Reg)
  /-- 9XY0 (R117) -/
  | sneReg (x y : Reg)
  /-- ANNN (R150) -/
  | ldI (nnn : Addr12)
  /-- BNNN (R118) -/
  | jpV0 (nnn : Addr12)
  /-- CXKK (R142) -/
  | rnd (x : Reg) (kk : Byte)
  /-- DXYN (R168); `n` is the sprite's height in rows -/
  | drw (x y : Reg) (n : Fin 16)
  /-- EX9E (R178) -/
  | skp (x : Reg)
  /-- EXA1 (R179) -/
  | sknp (x : Reg)
  /-- FX07 (R182) -/
  | ldVxDt (x : Reg)
  /-- FX0A (R180) -/
  | ldVxK (x : Reg)
  /-- FX15 (R183) -/
  | ldDtVx (x : Reg)
  /-- FX18 (R184) -/
  | ldStVx (x : Reg)
  /-- FX1E (R151) -/
  | addI (x : Reg)
  /-- FX29 (R152) -/
  | ldF (x : Reg)
  /-- FX33 (R153) -/
  | ldB (x : Reg)
  /-- FX55 (R154) -/
  | storeRegs (x : Reg)
  /-- FX65 (R155) -/
  | loadRegs (x : Reg)
  /-- any word that matches no pattern of R95 (R96, R193) -/
  | unrecognized (w : Word)
  deriving DecidableEq, Repr

end Sys2Proof
end

