-- ==== Sys2Proof/Decode.lean ====
section
/-! DEFINITION. The fields of an instruction word, the decoder, the encoder, and the match/mask table
(spec/30_encoding.md R92 to R96, R101, R102). The decoder follows the dispatch of R94; the table of R95 stands beside
it and is used by WellFormed, so that the two descriptions of the spec can be compared. -/
namespace Sys2Proof

/-! ### Fields (R92) -/

/-- `op = w[15:12]`, the top nibble. -/
def Decode.op (w : Word) : BitVec 4 := w.extractLsb' 12 4

/-- `X = w[11:8]`. -/
def Decode.x (w : Word) : Reg := (w.extractLsb' 8 4).toFin

/-- `Y = w[7:4]`. -/
def Decode.y (w : Word) : Reg := (w.extractLsb' 4 4).toFin

/-- `N = w[3:0]`, the bottom nibble. -/
def Decode.n (w : Word) : BitVec 4 := w.extractLsb' 0 4

/-- `KK = w[7:0]`, the bottom byte. -/
def Decode.kk (w : Word) : Byte := w.extractLsb' 0 8

/-- `NNN = w[11:0]`. -/
def Decode.nnn (w : Word) : Addr12 := w.extractLsb' 0 12

/-! ### Decoder (R94, R101) -/

/-- Family 0 matches the whole word. -/
def Decode.family0 (w : Word) : Instr :=
  if w = 0x0000#16 then .nop
  else if w = 0x00E0#16 then .cls
  else if w = 0x00EE#16 then .ret
  else .unrecognized w

/-- Family 8 dispatches on the bottom nibble. -/
def Decode.family8 (w : Word) : Instr :=
  if Decode.n w = 0x0#4 then .ldReg (Decode.x w) (Decode.y w)
  else if Decode.n w = 0x1#4 then .orReg (Decode.x w) (Decode.y w)
  else if Decode.n w = 0x2#4 then .andReg (Decode.x w) (Decode.y w)
  else if Decode.n w = 0x3#4 then .xorReg (Decode.x w) (Decode.y w)
  else if Decode.n w = 0x4#4 then .addReg (Decode.x w) (Decode.y w)
  else if Decode.n w = 0x5#4 then .subReg (Decode.x w) (Decode.y w)
  else if Decode.n w = 0x6#4 then .shr (Decode.x w) (Decode.y w)
  else if Decode.n w = 0x7#4 then .subn (Decode.x w) (Decode.y w)
  else if Decode.n w = 0xE#4 then .shl (Decode.x w) (Decode.y w)
  else .unrecognized w

/-- Family E dispatches on the bottom byte. -/
def Decode.familyE (w : Word) : Instr :=
  if Decode.kk w = 0x9E#8 then .skp (Decode.x w)
  else if Decode.kk w = 0xA1#8 then .sknp (Decode.x w)
  else .unrecognized w

/-- Family F dispatches on the bottom byte. -/
def Decode.familyF (w : Word) : Instr :=
  if Decode.kk w = 0x07#8 then .ldVxDt (Decode.x w)
  else if Decode.kk w = 0x0A#8 then .ldVxK (Decode.x w)
  else if Decode.kk w = 0x15#8 then .ldDtVx (Decode.x w)
  else if Decode.kk w = 0x18#8 then .ldStVx (Decode.x w)
  else if Decode.kk w = 0x1E#8 then .addI (Decode.x w)
  else if Decode.kk w = 0x29#8 then .ldF (Decode.x w)
  else if Decode.kk w = 0x33#8 then .ldB (Decode.x w)
  else if Decode.kk w = 0x55#8 then .storeRegs (Decode.x w)
  else if Decode.kk w = 0x65#8 then .loadRegs (Decode.x w)
  else .unrecognized w

/-- The one instruction a word decodes to (R101): "on the instruction's top nibble, with several opcodes requiring
secondary dispatch on the bottom nibble or bottom byte" (R94). -/
def decodeWord (w : Word) : Instr :=
  match Decode.op w with
  | 0x0#4 => Decode.family0 w
  | 0x1#4 => .jp (Decode.nnn w)
  | 0x2#4 => .call (Decode.nnn w)
  | 0x3#4 => .seImm (Decode.x w) (Decode.kk w)
  | 0x4#4 => .sneImm (Decode.x w) (Decode.kk w)
  | 0x5#4 => if Decode.n w = 0x0#4 then .seReg (Decode.x w) (Decode.y w) else .unrecognized w
  | 0x6#4 => .ldImm (Decode.x w) (Decode.kk w)
  | 0x7#4 => .addImm (Decode.x w) (Decode.kk w)
  | 0x8#4 => Decode.family8 w
  | 0x9#4 => if Decode.n w = 0x0#4 then .sneReg (Decode.x w) (Decode.y w) else .unrecognized w
  | 0xA#4 => .ldI (Decode.nnn w)
  | 0xB#4 => .jpV0 (Decode.nnn w)
  | 0xC#4 => .rnd (Decode.x w) (Decode.kk w)
  | 0xD#4 => .drw (Decode.x w) (Decode.y w) (Decode.n w).toFin
  | 0xE#4 => Decode.familyE w
  | 0xF#4 => Decode.familyF w
  | _ => .unrecognized w  -- no nibble is left for this arm

/-- Why a byte sequence is no instruction: only for want of bytes, since every word decodes (R90, R101). -/
inductive DecodeError where
  /-- fewer than the two bytes of a word -/
  | truncated
  deriving DecidableEq, Repr

/-- Reads one instruction off a byte sequence, high byte first, and answers the rest with it (R80, R90). -/
def decode : List Byte → Except DecodeError (Instr × List Byte)
  | hi :: lo :: rest => .ok (decodeWord (hi ++ lo), rest)
  | [_] => .error .truncated
  | [] => .error .truncated

/-- The host's question about the opcode table: the instruction whose bits are `w`, given to the decoder as the
two bytes memory holds, the high byte first (R80). -/
def decodeTableWord (nbits w : Nat) : Option Instr :=
  let word := BitVec.ofNat 16 (w % 2 ^ nbits)
  match decode [word.extractLsb' 8 8, word.extractLsb' 0 8] with
  | .ok (i, _) => some i
  | .error _ => none

/-! ### Encoder (R92, R95) -/

/-- Four digits, the most significant first: the shape of the `XY` and `XYN` formats. -/
def Encode.xyn (op : BitVec 4) (x y : Reg) (n : BitVec 4) : Word :=
  op ++ BitVec.ofFin (w := 4) x ++ BitVec.ofFin (w := 4) y ++ n

/-- The shape of the `XKK` format, and of the `X` format with `kk` its fixed bottom byte. -/
def Encode.xkk (op : BitVec 4) (x : Reg) (kk : Byte) : Word :=
  op ++ BitVec.ofFin (w := 4) x ++ kk

/-- The shape of the `NNN` format. -/
def Encode.addr (op : BitVec 4) (nnn : Addr12) : Word := op ++ nnn

/-- The word of an instruction, from the fixed digits of its pattern (R95). -/
def encode : Instr → Word
  | .nop => 0x0000#16
  | .cls => 0x00E0#16
  | .ret => 0x00EE#16
  | .jp nnn => Encode.addr 0x1#4 nnn
  | .call nnn => Encode.addr 0x2#4 nnn
  | .seImm x kk => Encode.xkk 0x3#4 x kk
  | .sneImm x kk => Encode.xkk 0x4#4 x kk
  | .seReg x y => Encode.xyn 0x5#4 x y 0x0#4
  | .ldImm x kk => Encode.xkk 0x6#4 x kk
  | .addImm x kk => Encode.xkk 0x7#4 x kk
  | .ldReg x y => Encode.xyn 0x8#4 x y 0x0#4
  | .orReg x y => Encode.xyn 0x8#4 x y 0x1#4
  | .andReg x y => Encode.xyn 0x8#4 x y 0x2#4
  | .xorReg x y => Encode.xyn 0x8#4 x y 0x3#4
  | .addReg x y => Encode.xyn 0x8#4 x y 0x4#4
  | .subReg x y => Encode.xyn 0x8#4 x y 0x5#4
  | .shr x y => Encode.xyn 0x8#4 x y 0x6#4
  | .subn x y => Encode.xyn 0x8#4 x y 0x7#4
  | .shl x y => Encode.xyn 0x8#4 x y 0xE#4
  | .sneReg x y => Encode.xyn 0x9#4 x y 0x0#4
  | .ldI nnn => Encode.addr 0xA#4 nnn
  | .jpV0 nnn => Encode.addr 0xB#4 nnn
  | .rnd x kk => Encode.xkk 0xC#4 x kk
  | .drw x y n => Encode.xyn 0xD#4 x y (BitVec.ofFin (w := 4) n)
  | .skp x => Encode.xkk 0xE#4 x 0x9E#8
  | .sknp x => Encode.xkk 0xE#4 x 0xA1#8
  | .ldVxDt x => Encode.xkk 0xF#4 x 0x07#8
  | .ldVxK x => Encode.xkk 0xF#4 x 0x0A#8
  | .ldDtVx x => Encode.xkk 0xF#4 x 0x15#8
  | .ldStVx x => Encode.xkk 0xF#4 x 0x18#8
  | .addI x => Encode.xkk 0xF#4 x 0x1E#8
  | .ldF x => Encode.xkk 0xF#4 x 0x29#8
  | .ldB x => Encode.xkk 0xF#4 x 0x33#8
  | .storeRegs x => Encode.xkk 0xF#4 x 0x55#8
  | .loadRegs x => Encode.xkk 0xF#4 x 0x65#8
  | .unrecognized w => w

/-- The two bytes of an instruction as memory holds them, the high byte first (R80). -/
def encodeBytes (i : Instr) : List Byte := [(encode i).extractLsb' 8 8, (encode i).extractLsb' 0 8]

/-! ### The match and mask table (R95) -/

/-- Every row of R95's table as (mask, match), in the opcode table's order. -/
def Decode.patterns : List (Word × Word) :=
  [(0xFFFF, 0x0000), (0xFFFF, 0x00E0), (0xFFFF, 0x00EE)] ++
  [(0xF000, 0x1000), (0xF000, 0x2000), (0xF000, 0x3000), (0xF000, 0x4000), (0xF00F, 0x5000)] ++
  [(0xF000, 0x6000), (0xF000, 0x7000)] ++
  [(0xF00F, 0x8000), (0xF00F, 0x8001), (0xF00F, 0x8002), (0xF00F, 0x8003), (0xF00F, 0x8004)] ++
  [(0xF00F, 0x8005), (0xF00F, 0x8006), (0xF00F, 0x8007), (0xF00F, 0x800E)] ++
  [(0xF00F, 0x9000), (0xF000, 0xA000), (0xF000, 0xB000), (0xF000, 0xC000), (0xF000, 0xD000)] ++
  [(0xF0FF, 0xE09E), (0xF0FF, 0xE0A1)] ++
  [(0xF0FF, 0xF007), (0xF0FF, 0xF00A), (0xF0FF, 0xF015), (0xF0FF, 0xF018), (0xF0FF, 0xF01E)] ++
  [(0xF0FF, 0xF029), (0xF0FF, 0xF033), (0xF0FF, 0xF055), (0xF0FF, 0xF065)]

/-- A word matches a pattern when `(w & mask) = match` (R95). -/
def Decode.matchesRow (w : Word) (row : Word × Word) : Bool := w &&& row.1 == row.2

/-- A word some row of R95 matches; the others are the unrecognized words of R96. -/
def Decode.recognized (w : Word) : Bool := Decode.patterns.any (Decode.matchesRow w)

/-- The row of R95 an instruction is encoded by; the fallback row (mask 0) for an unrecognized word. -/
def Decode.rowOf : Instr → Word × Word
  | .nop => (0xFFFF, 0x0000)
  | .cls => (0xFFFF, 0x00E0)
  | .ret => (0xFFFF, 0x00EE)
  | .jp _ => (0xF000, 0x1000)
  | .call _ => (0xF000, 0x2000)
  | .seImm _ _ => (0xF000, 0x3000)
  | .sneImm _ _ => (0xF000, 0x4000)
  | .seReg _ _ => (0xF00F, 0x5000)
  | .ldImm _ _ => (0xF000, 0x6000)
  | .addImm _ _ => (0xF000, 0x7000)
  | .ldReg _ _ => (0xF00F, 0x8000)
  | .orReg _ _ => (0xF00F, 0x8001)
  | .andReg _ _ => (0xF00F, 0x8002)
  | .xorReg _ _ => (0xF00F, 0x8003)
  | .addReg _ _ => (0xF00F, 0x8004)
  | .subReg _ _ => (0xF00F, 0x8005)
  | .shr _ _ => (0xF00F, 0x8006)
  | .subn _ _ => (0xF00F, 0x8007)
  | .shl _ _ => (0xF00F, 0x800E)
  | .sneReg _ _ => (0xF00F, 0x9000)
  | .ldI _ => (0xF000, 0xA000)
  | .jpV0 _ => (0xF000, 0xB000)
  | .rnd _ _ => (0xF000, 0xC000)
  | .drw _ _ _ => (0xF000, 0xD000)
  | .skp _ => (0xF0FF, 0xE09E)
  | .sknp _ => (0xF0FF, 0xE0A1)
  | .ldVxDt _ => (0xF0FF, 0xF007)
  | .ldVxK _ => (0xF0FF, 0xF00A)
  | .ldDtVx _ => (0xF0FF, 0xF015)
  | .ldStVx _ => (0xF0FF, 0xF018)
  | .addI _ => (0xF0FF, 0xF01E)
  | .ldF _ => (0xF0FF, 0xF029)
  | .ldB _ => (0xF0FF, 0xF033)
  | .storeRegs _ => (0xF0FF, 0xF055)
  | .loadRegs _ => (0xF0FF, 0xF065)
  | .unrecognized _ => (0x0000, 0x0000)

end Sys2Proof
end

