-- ==== Sys2Proof/Config.lean ====
section
/-! DEFINITION. The parameters of spec/00_scope.md R8: their defaults, the values one core is built with
(spec/10_state.md R57; spec/92_eei_decisions.md D1), the constraints on them (R10; log 1), and the free values
(spec/93_implementation_defined.md U1, U2, U8, U9). -/
namespace Sys2Proof

/-! ### The defaults, the document's values (R8) -/

/-- `MEM_SIZE`, default: bytes of Memory. -/
abbrev Config.memSize : Nat := 4096

/-- `STACK_DEPTH`, default: slots of the return stack. -/
abbrev Config.stackDepth : Nat := 64

/-- `SCREEN_W`, default: framebuffer columns. -/
abbrev Config.screenW : Nat := 64

/-- `SCREEN_H`, default: framebuffer rows. -/
abbrev Config.screenH : Nat := 32

/-- `HALT_STRIKES`, default: consecutive 0x0000 words that halt the core. -/
abbrev Config.haltStrikes : Nat := 5

/-- `PROG_ORIGIN`, default: reset PC and ROM load address. -/
abbrev Config.progOrigin : Nat := 0x200

/-- `FONT_BASE`, default: address of the first glyph. -/
abbrev Config.fontBase : Nat := 0x050

/-- The font table is 16 glyphs of 5 bytes. -/
abbrev Config.fontBytes : Nat := Config.fontGlyphs * Config.glyphBytes

/-- `CLOCK_HZ`, default; timing, which no rule of the model depends on (R212, R246). -/
abbrev Config.clockHz : Nat := 500

/-- `TIMER_HZ`, default; timing, which no rule of the model depends on (R9, R212, R247). -/
abbrev Config.timerHz : Nat := 60

/-- The parameter `FONT`: glyph `d`, row `r` is `font[d][r]` (R75, R76). -/
abbrev Font := Vector (Vector Byte Config.glyphBytes) Config.fontGlyphs

/-- `FONT`, default: the customary hexadecimal font of R76 (PRESUMED by the spec itself; log 5). -/
def Config.font : Font :=
  #v[#v[0xF0, 0x90, 0x90, 0x90, 0xF0], #v[0x20, 0x60, 0x20, 0x20, 0x70],
     #v[0xF0, 0x10, 0xF0, 0x80, 0xF0], #v[0xF0, 0x10, 0xF0, 0x10, 0xF0],
     #v[0x90, 0x90, 0xF0, 0x10, 0x10], #v[0xF0, 0x80, 0xF0, 0x10, 0xF0],
     #v[0xF0, 0x80, 0xF0, 0x90, 0xF0], #v[0xF0, 0x10, 0x20, 0x40, 0x40],
     #v[0xF0, 0x90, 0xF0, 0x90, 0xF0], #v[0xF0, 0x90, 0xF0, 0x10, 0xF0],
     #v[0xF0, 0x90, 0xF0, 0x90, 0x90], #v[0xE0, 0x90, 0xE0, 0x90, 0xE0],
     #v[0xF0, 0x80, 0x80, 0x80, 0xF0], #v[0xE0, 0x90, 0x90, 0x90, 0xE0],
     #v[0xF0, 0x80, 0xF0, 0x80, 0xF0], #v[0xF0, 0x80, 0xF0, 0x80, 0x80]]

/-! ### The parameters of one core -/

/-- How DXYN computes its collision result: `any` (R163, the default) or `last` (R164). -/
inductive CollisionMode where
  | any
  | last
  deriving DecidableEq, Repr

/-- The parameters a core is built with, set before `start()` and written by no step (R8, R57, R223, D1). -/
structure RunConfig where
  /-- `MEM_SIZE` (R70) -/
  memSize : Nat
  /-- `STACK_DEPTH` (R44) -/
  stackDepth : Nat
  /-- `FONT_BASE` (R9, R75) -/
  fontBase : Nat
  /-- `FONT` (R76) -/
  font : Font
  /-- `PROG_ORIGIN` (R231) -/
  progOrigin : Nat
  /-- `SCREEN_W` (R55) -/
  screenW : Nat
  /-- `SCREEN_H` (R55) -/
  screenH : Nat
  /-- `CLOCK_HZ`; nothing reads it (R212; log 14) -/
  clockHz : Nat
  /-- `TIMER_HZ`; nothing reads it (R212; log 14) -/
  timerHz : Nat
  /-- `HALT_STRIKES` (R197) -/
  haltStrikes : Nat
  /-- `COLLISION_MODE` (R163, R164) -/
  collisionMode : CollisionMode
  deriving DecidableEq, Repr

/-- Every parameter at its default (R8). -/
def RunConfig.standard : RunConfig where
  memSize := Config.memSize
  stackDepth := Config.stackDepth
  fontBase := Config.fontBase
  font := Config.font
  progOrigin := Config.progOrigin
  screenW := Config.screenW
  screenH := Config.screenH
  clockHz := Config.clockHz
  timerHz := Config.timerHz
  haltStrikes := Config.haltStrikes
  collisionMode := .any

/-- The constraints of R10, and the three that the rules presuppose: a screen to take an origin modulo of (R14, R161),
and a strike count that can be reached (R30, R98; log 1). -/
def RunConfig.legal (c : RunConfig) : Bool :=
  decide (65536 % c.memSize = 0) && decide (c.fontBase + Config.fontBytes ≤ c.memSize) &&
    decide (c.progOrigin < c.memSize) && decide (1 ≤ c.stackDepth) && decide (0 < c.clockHz) &&
    decide (0 < c.screenW) && decide (0 < c.screenH) && decide (0 < c.haltStrikes)

/-! ### The agents' moves -/

/-- The steps of spec/60_exceptions.md R208, each the move of one agent. -/
inductive Machine.Move where
  /-- core: one fetch-decode-execute (R98) -/
  | instructionCycle
  /-- core: a waiting FX0A sees a key (R181) -/
  | keyWaitEnd
  /-- timer unit: one 60 Hz tick (R213) -/
  | timerTick
  /-- core: the loop sees the stop flag (R206) -/
  | stopSeen
  /-- controller: `start()` (R204) -/
  | start
  /-- controller: `stop()` (R206) -/
  | stop
  /-- input: `set(k)` (R175) -/
  | keySet (k : Byte)
  /-- input: `unset(k)` (R175) -/
  | keyUnset (k : Byte)
  /-- renderer: `snapshot()` (R165) -/
  | snapshot
  /-- audio: `isSoundActive()`, answered for the state before the last core step if `stale` (R222) -/
  | soundPoll (stale : Bool)
  deriving DecidableEq, Repr

/-! ### Free values -/

/-- FREE VALUE. `RandomByte()`: the `n`-th draw of this run is any 8-bit value (R145, U1; log 4). -/
opaque Config.randomByte : Nat → Byte

/-- FREE VALUE. What the `n`-th draw of this run pops from a stack slot that no push has written:
any 16-bit value (R48, U2; log 3). -/
opaque Config.unwrittenSlot : Nat → Word

/-- FREE VALUE. The moves of the agents in the `n`-th round of this run, before the steps that close every round: any
moves, any number of them, in any order (R208, R212, U8, U9, U11; log 7). -/
opaque Config.freeMoves : Nat → List Machine.Move

end Sys2Proof
end

