-- ==== Sys2Proof/Machine/State.lean ====
section
/-! DEFINITION. The machine's state as plain data (spec/10_state.md R30 and the rules it points to), the reasons a
launch or an arm can stop, and the state after construction (R60). -/
namespace Sys2Proof.Machine

/-- The run state (R50): `Idle` is stopped and never started, `Halted` is stopped after a run. -/
inductive RunState where
  | idle
  | running
  | halted
  deriving DecidableEq, Repr

/-- One slot of the return stack (R44): what a push left there, or the mark that no push has written it (R48). -/
inductive Slot where
  /-- no push has written this slot; popping it is a draw (R48; log 3) -/
  | unwritten
  /-- the 16-bit address the last push into this slot stored -/
  | pushed (a : Word)
  deriving DecidableEq, Repr

/-- A diagnostic event (R194). -/
inductive DiagEvent where
  /-- an unrecognized word and the address it was fetched from -/
  | unrecognized (w addr : Word)
  /-- the heuristic halt and the address of the last 0x0000 word -/
  | halt (addr : Word)
  deriving DecidableEq, Repr

/-- Memory (R70): the bytes that differ from their contents after construction with the default parameters, by rising
address (log 10). -/
abbrev Memory := List Host.Cell

/-- The framebuffer (R55): its rows top to bottom, each left to right, `true` meaning on. `SCREEN_H` rows of `SCREEN_W`
pixels, which is a clause of the machine's invariant. -/
abbrev Frame := List (List Bool)

/-- The model's own bookkeeping around R208: which agent moves next, what is left of a stop's allowance, and what
the host agents were handed. No instruction reads or writes any of it. -/
structure Env where
  /-- the agents' moves to come, oldest first (R208, R212; log 6) -/
  schedule : List Move
  /-- how many rounds of moves have been drawn (R212; log 7) -/
  rounds : Nat
  /-- one instruction cycle may still run after `stop()` (R206; log 8) -/
  stopCycleLeft : Bool
  /-- one timer tick may still run after `stop()` (R206; log 8) -/
  stopTickLeft : Bool
  /-- one tick may follow the step that set `run <- Halted` (R197, R207; log 9) -/
  lateTick : Bool
  /-- `ST` before the most recent core step (R222; log 11) -/
  stBefore : Byte
  /-- the frames handed to the renderer, oldest first (R221; log 12) -/
  snapshots : List Frame
  /-- the answers handed to the audio collaborator, oldest first (R222; log 12) -/
  polls : List Bool
  deriving DecidableEq, Repr

/-- The state of the machine: R30's tuple, the parameters of R8 and R57, and the model's own two fields. -/
structure State where
  /-- V0..VF (R32) -/
  v : Vector Byte Config.numV
  /-- I (R39) -/
  i : Word
  /-- PC (R35) -/
  pc : Word
  /-- DT (R40) -/
  dt : Byte
  /-- ST (R40) -/
  st : Byte
  /-- the return stack, slot 0 first: `STACK_DEPTH` slots, which is a clause of the invariant (R44) -/
  stack : List Slot
  /-- SP, below `STACK_DEPTH`, which is a clause of the invariant (R44) -/
  sp : Nat
  /-- Memory (R70) -/
  mem : Memory
  /-- the framebuffer (R55) -/
  fb : Frame
  /-- the keyboard (R56) -/
  keys : Vector Bool Config.numKeys
  /-- the run state (R50) -/
  run : RunState
  /-- consecutive fetches of 0x0000 (R51) -/
  strikes : Nat
  /-- an FX0A waiting for a key (R52) -/
  wait : Option Reg
  /-- the stop flag (R53) -/
  stopReq : Bool
  /-- the events reported, oldest first (R54) -/
  diag : List DiagEvent
  /-- the parameters of the core, written by no step (R8, R57; log 2) -/
  cfg : RunConfig
  /-- how many free values have been taken (log 4) -/
  draws : Nat
  /-- the model's own bookkeeping around R208 -/
  env : Env
  deriving DecidableEq, Repr

/-- Why the machine stops with a fault. No step does (R71, R190, R192). -/
inductive Fault where
  /-- Raised by the launch (`Machine.launch`) when the ROM cannot be read (R191, R234): no core state exists. Safe. -/
  | romUnreadable
  deriving DecidableEq, Repr

/-- Why something is given no meaning. No step of this model answers with one. -/
inductive Refusal where
  /-- Raised by an arm of `exec` whose instruction has no meaning yet; no arm is in that case. Safe. -/
  | notModelled (mnemonic : String)
  /-- Raised by the construction for a ROM longer than `MEM_SIZE - PROG_ORIGIN` (R233, D22). Safe. -/
  | romTooLong
  /-- Raised by the construction for a configuration that R10 rules out, or that has an empty screen or no strike to
  halt it, which the model rules out (log 1, DEDUCED). Safe. -/
  | illegalConfig
  deriving DecidableEq, Repr

/-- What an instruction, a move or a step answers. -/
abbrev Result := Host.Outcome State Fault Refusal

/-- The bookkeeping after construction: nothing scheduled, nothing handed out (log 6, 7, 8, 9, 11, 12). -/
def Env.reset : Env where
  schedule := []
  rounds := 0
  stopCycleLeft := true
  stopTickLeft := true
  lateTick := false
  stBefore := 0
  snapshots := []
  polls := []

/-- Every piece of state but memory after construction with the parameters `c` (R60, R230); memory lists nothing. -/
def State.fresh (c : RunConfig) : State where
  v := Vector.replicate Config.numV 0
  i := 0
  pc := BitVec.ofNat 16 c.progOrigin
  dt := 0
  st := 0
  stack := List.replicate c.stackDepth .unwritten
  sp := c.stackDepth - 1
  mem := []
  fb := List.replicate c.screenH (List.replicate c.screenW false)
  keys := Vector.replicate Config.numKeys false
  run := .idle
  strikes := 0
  wait := none
  stopReq := false
  diag := []
  cfg := c
  draws := 0
  env := Env.reset

/-- The machine after construction with an empty ROM and the default parameters (R60, R230): memory lists nothing,
since an unlisted byte reads as its contents after construction (log 10). -/
def State.reset : State := State.fresh RunConfig.standard

end Sys2Proof.Machine
end

