-- ==== Sys2Proof/Machine/Ops.lean ====
section
/-! DEFINITION. The named operations over registers, PC, memory, stack, diagnostics, keyboard, framebuffer and timers
that the rules call primitives (spec/00_scope.md R15 to R18). The hardware has no exception entry or return (R190,
R201); the two conditions that stand in for faults are `State.report` (R193) and `State.halt` (R197). -/
namespace Sys2Proof.Machine

/-! ### Registers (R15, R32) -/

/-- `V[r]`. -/
def State.reg (s : State) (r : Reg) : Byte := s.v[r]

/-- `V[r] <- b`. -/
def State.setReg (s : State) (r : Reg) (b : Byte) : State := { s with v := s.v.set r b }

/-! ### Program counter (R36, R38) -/

/-- `(pc + 2) mod MEM_SIZE`. -/
def nextPc (c : RunConfig) (pc : Word) : Word := BitVec.ofNat 16 ((pc.toNat + 2) % c.memSize)

/-- `(pc - 2) mod MEM_SIZE`, the address of the word just fetched (R193, R197). -/
def prevPc (c : RunConfig) (pc : Word) : Word := BitVec.ofNat 16 ((pc.toNat + c.memSize - 2) % c.memSize)

/-- `PC <- target`. -/
def State.jump (s : State) (target : Word) : State := { s with pc := target }

/-- `Skip()` (R100). -/
def State.skip (s : State) : State := s.jump (nextPc s.cfg s.pc)

/-- `if c then Skip()`, the shape of every skip instruction (R43). -/
def State.skipIf (s : State) (c : Bool) : State := if c then s.skip else s

/-! ### Memory (R70 to R73) -/

/-- The contents after construction, with the default parameters, of address `a`: the font table at `FONT_BASE`,
0x00 elsewhere (R60, R79). An address that memory does not list reads as this (log 10). -/
def Memory.initial (a : Nat) : Byte :=
  if Config.fontBase ≤ a ∧ a < Config.fontBase + Config.fontBytes then
    match Config.font[(a - Config.fontBase) / Config.glyphBytes]? with
    | some glyph => glyph[(a - Config.fontBase) % Config.glyphBytes]?.getD 0
    | none => 0
  else 0

/-- The byte a list of cells gives for an address already reduced. -/
def Memory.lookup : Memory → Nat → Byte
  | [], a => Memory.initial a
  | (k, b) :: rest, a => if k = a then b else Memory.lookup rest a

/-- `MemRead(addr, 1)` in a memory of `size` bytes (R71). -/
def Memory.read (m : Memory) (size addr : Nat) : Byte := Memory.lookup m (addr % size)

/-- Puts a cell before the first one of a higher address. -/
def Memory.insert : Memory → Nat → Byte → Memory
  | [], a, b => [(a, b)]
  | (k, c) :: rest, a, b =>
    if a < k then (a, b) :: (k, c) :: rest else (k, c) :: Memory.insert rest a b

/-- Takes an address out of the list, so that it reads as its initial contents. -/
def Memory.erase (m : Memory) (a : Nat) : Memory := m.filter (fun c => c.1 != a)

/-- `MemWrite(addr, 1, b)` in a memory of `size` bytes (R71), keeping the canonical form. -/
def Memory.write (m : Memory) (size addr : Nat) (b : Byte) : Memory :=
  let a := addr % size
  if b = Memory.initial a then Memory.erase m a else Memory.insert (Memory.erase m a) a b

/-- Single-byte writes at increasing addresses, each reduced on its own (R83, R156). -/
def Memory.writeBytes (m : Memory) (size addr : Nat) : List Byte → Memory
  | [] => m
  | b :: rest => Memory.writeBytes (Memory.write m size addr b) size (addr + 1) rest

/-- The canonical form of a memory of `size` bytes: addresses strictly rising and inside the space, no cell equal to
what its address reads as when unlisted. -/
abbrev Memory.wf (size : Nat) (m : Memory) : Prop :=
  m.Pairwise (fun c d => c.1 < d.1) ∧ ∀ c ∈ m, c.1 < size ∧ c.2 ≠ Memory.initial c.1

/-- `MemRead(addr, 1)` (R71). -/
def State.readByte (s : State) (addr : Nat) : Byte := s.mem.read s.cfg.memSize addr

/-- `FetchWord(pc)` (R81): the byte at `pc` is the high one, and each address is reduced on its own. -/
def State.fetchWord (s : State) (pc : Nat) : Word := s.readByte pc ++ s.readByte (pc + 1)

/-- `font()` "returns the base offset of the preloaded glyph table" (R75). -/
def State.font (s : State) : Nat := s.cfg.fontBase

/-- The 80 bytes of a font, glyph by glyph (R75). -/
def fontTable (f : Font) : List Byte := f.toList.flatMap (fun glyph => glyph.toList)

/-- `Memory.reset()` (R79): every byte 0x00, then `FONT` at `FONT_BASE`. The list of a zeroed store holds a 0x00 for
each nonzero byte of the default font (log 10). No step calls it (R236). -/
def Memory.reset (c : RunConfig) : Memory :=
  let zeroed := Memory.writeBytes [] c.memSize Config.fontBase (List.replicate Config.fontBytes 0)
  Memory.writeBytes zeroed c.memSize c.fontBase (fontTable c.font)

/-! ### Free values (R48, R145) -/

/-- `RandomByte()`: a fresh draw, and the state with the counter moved on (log 4). -/
def State.randomByte (s : State) : Byte × State :=
  (Config.randomByte s.draws, { s with draws := s.draws + 1 })

/-! ### Return stack (R44 to R49) -/

/-- `(SP + 1) mod STACK_DEPTH`. -/
def spUp (c : RunConfig) (sp : Nat) : Nat := (sp + 1) % c.stackDepth

/-- `(SP + STACK_DEPTH - 1) mod STACK_DEPTH`. -/
def spDown (c : RunConfig) (sp : Nat) : Nat := (sp + c.stackDepth - 1) % c.stackDepth

/-- `stack[SP]`. -/
def State.topSlot (s : State) : Slot := s.stack[s.sp]?.getD .unwritten

/-- `Push(a)` (R45). -/
def State.push (s : State) (a : Word) : State :=
  { s with sp := spUp s.cfg s.sp, stack := s.stack.set (spUp s.cfg s.sp) (.pushed a) }

/-- `Pop()` (R46): the popped address and the state after; a slot no push has written gives a draw (R48; log 3). -/
def State.pop (s : State) : Word × State :=
  match s.topSlot with
  | .pushed a => (a, { s with sp := spDown s.cfg s.sp })
  | .unwritten => (Config.unwrittenSlot s.draws, { s with sp := spDown s.cfg s.sp, draws := s.draws + 1 })

/-- `depth()` returns the current pointer, not a count (R47, R49). No instruction calls it. -/
def State.depth (s : State) : Nat := s.sp

/-! ### Diagnostics, strikes and the halt (R193 to R197) -/

/-- `Report(event)`. -/
def State.report (s : State) (e : DiagEvent) : State := { s with diag := s.diag ++ [e] }

/-- The strike counter of one fetch (R98, R196). -/
def State.countStrike (s : State) (w : Word) : State :=
  { s with strikes := if w = 0x0000#16 then s.strikes + 1 else 0 }

/-- `Halt()` (R197); the timer check of the same iteration may still run once (log 9). -/
def State.halt (s : State) : State :=
  { s.report (.halt (prevPc s.cfg s.pc)) with run := .halted, env := { s.env with lateTick := true } }

/-- The last line of the instruction cycle: `if strikes = HALT_STRIKES then Halt()` (R98). -/
def State.haltIfStruck (s : State) : State := if s.strikes = s.cfg.haltStrikes then s.halt else s

/-! ### Keyboard (R175, R176) -/

/-- "All key arguments are masked to 4 bits before indexing." -/
def keyIndex (k : Byte) : Key := (k.extractLsb' 0 4).toFin

/-- `isDown(k)`. -/
def State.keyDown (s : State) (k : Byte) : Bool := s.keys[keyIndex k]

/-- `set(k)`: the input agent only. -/
def State.setKey (s : State) (k : Byte) : State := { s with keys := s.keys.set (keyIndex k) true }

/-- `unset(k)`: the input agent only. -/
def State.unsetKey (s : State) (k : Byte) : State := { s with keys := s.keys.set (keyIndex k) false }

/-- The key numbers in the order `nextPressedKey()` scans them. -/
def keyOrder : List Key := [0, 1, 2, 3, 4, 5, 6, 7, 8, 9, 10, 11, 12, 13, 14, 15]

/-- `nextPressedKey()` (R176): the lowest key down, or none. -/
def State.nextPressedKey (s : State) : Option Key := keyOrder.find? (fun k => s.keys[k])

/-- A key number as the byte FX0A stores. -/
def keyByte (k : Key) : Byte := BitVec.ofNat 8 k.val

/-- `Keyboard.resetKeys`: all 16 keys released (R236, C5). No step calls it. -/
def State.resetKeys (s : State) : State := { s with keys := Vector.replicate Config.numKeys false }

/-! ### Framebuffer (R160 to R164) -/

/-- Every pixel off. -/
def Frame.blank (c : RunConfig) : Frame := List.replicate c.screenH (List.replicate c.screenW false)

/-- `SCREEN_H` rows of `SCREEN_W` pixels (R55). -/
abbrev Frame.wf (c : RunConfig) (f : Frame) : Prop := f.length = c.screenH ∧ ∀ row ∈ f, row.length = c.screenW

/-- `fb[y][x]`; off the screen there is no pixel and the answer is `false`. -/
def Frame.pixel (f : Frame) (x y : Nat) : Bool := (f[y]?.bind fun row => row[x]?).getD false

/-- XOR of the pixel at `(x, y)` with 1; off the screen nothing changes. -/
def Frame.toggle (f : Frame) (x y : Nat) : Frame := f.modify y fun row => row.modify x not

/-- A draw in progress: the frame so far, whether some toggle turned a pixel off, and whether the last one did. -/
structure Draw where
  fb : Frame
  anyHit : Bool
  lastHit : Bool
  deriving DecidableEq, Repr

/-- One bit of the sprite at `(x, y)`: clipped, not wrapped, past the right and bottom edges (R161, R162). -/
def Draw.dot (c : RunConfig) (d : Draw) (bit : Bool) (x y : Nat) : Draw :=
  if bit = true ∧ x < c.screenW ∧ y < c.screenH then
    { fb := d.fb.toggle x y, anyHit := d.anyHit || d.fb.pixel x y, lastHit := d.fb.pixel x y }
  else d

/-- Bit `k` of a sprite byte, counted from the most significant (R161). -/
def spriteBit (b : Byte) (k : Nat) : Bool := b.getLsbD (7 - k)

/-- One row of the sprite, columns left to right. -/
def Draw.row (c : RunConfig) (d : Draw) (b : Byte) (x0 y : Nat) : Draw :=
  [0, 1, 2, 3, 4, 5, 6, 7].foldl (fun d k => d.dot c (spriteBit b k) (x0 + k) y) d

/-- The rows of the sprite, top to bottom, from row `y`. -/
def Draw.rows (c : RunConfig) : Draw → List Byte → Nat → Nat → Draw
  | d, [], _, _ => d
  | d, b :: rest, x0, y => Draw.rows c (d.row c b x0 y) rest x0 (y + 1)

/-- `FbDraw(bytes, xo, yo)`: the frame after, and both readings of the collision (R161). -/
def Frame.draw (c : RunConfig) (f : Frame) (bytes : List Byte) (xo yo : Byte) : Draw :=
  Draw.rows c { fb := f, anyHit := false, lastHit := false } bytes (xo.toNat % c.screenW) (yo.toNat % c.screenH)

/-- The collision `FbDraw` returns under `COLLISION_MODE` (R163, R164). -/
def Draw.collision (d : Draw) : CollisionMode → Bool
  | .any => d.anyHit
  | .last => d.lastHit

/-! ### Timers (R41, R213) -/

/-- A counter down by 1, floored at 0. -/
def tickDown (t : Byte) : Byte := if 0 < t.toNat then t - 1 else t

/-- `TimerTick()`. -/
def State.tick (s : State) : State := { s with dt := tickDown s.dt, st := tickDown s.st }

/-- `isSoundActive()`: `ST > 0`. -/
def soundActive (st : Byte) : Bool := decide (0 < st.toNat)

end Sys2Proof.Machine
end

