-- ==== Sys2Proof/Machine/Flags.lean ====
section
/-! DEFINITION. Every value VF takes as a flag (spec/10_state.md R42; spec/41_alu.md R137 to R141). -/
namespace Sys2Proof.Machine

/-- A condition as the byte VF holds: 0x01 or 0x00. -/
def flagByte (c : Bool) : Byte := if c then 0x01#8 else 0x00#8

/-- 8XY4: 1 if the unsigned sum exceeds 255 (R137). -/
def carryFlag (a b : Byte) : Byte := flagByte (decide (255 < a.toNat + b.toNat))

/-- 8XY5 and 8XY7, of minuend `a` and subtrahend `b`: 0 if there was a borrow, else 1 (R138, R140). -/
def notBorrowFlag (a b : Byte) : Byte := flagByte (!decide (a.toNat < b.toNat))

/-- 8XY6: the bit shifted out on the right (R139). -/
def lowBitFlag (a : Byte) : Byte := a &&& 0x01#8

/-- 8XYE: the bit shifted out on the left (R141). -/
def highBitFlag (a : Byte) : Byte := flagByte (decide (128 ≤ a.toNat))

end Sys2Proof.Machine
end

