-- ==== Sys2Proof/Machine/Operands.lean ====
section
/-! DEFINITION. Every operand form of the instruction set (spec/30_encoding.md R93; spec/42_index_memory.md R156). -/
namespace Sys2Proof.Machine

/-- `zext_16(NNN)`: the target of 1NNN and 2NNN and the operand of ANNN (R93). -/
def addrOperand (nnn : Addr12) : Word := nnn.setWidth 16

/-- `trunc_16(zext_16(NNN) + zext_16(V[0]))`: the target of BNNN (R118). -/
def offsetTarget (nnn : Addr12) (offset : Byte) : Word := addrOperand nnn + offset.setWidth 16

/-- `I + k`, the one data addressing mode; the memory primitive reduces it (R156). -/
def indexAddr (i : Word) (k : Nat) : Nat := i.toNat + k

/-- `trunc_16(I + zext_16(V[X]))` (R151). -/
def indexPlus (i : Word) (b : Byte) : Word := i + b.setWidth 16

/-- `trunc_16(FONT_BASE + 5 * zext_16(V[X]))`: no mask on `V[X]` (R152). -/
def glyphAddr (base : Nat) (b : Byte) : Word := BitVec.ofNat 16 (base + 5 * b.toNat)

/-- The hundreds, tens and units of a byte (R153). -/
def decimalDigits (b : Byte) : List Byte :=
  [BitVec.ofNat 8 (b.toNat / 100), BitVec.ofNat 8 (b.toNat / 10 % 10), BitVec.ofNat 8 (b.toNat % 10)]

/-- The sprite bytes `[ MemRead(I + r, 1) for r in 0 .. n-1 ]` (R168). -/
def State.spriteBytes (s : State) (n : Nat) : List Byte :=
  (List.range n).map (fun r => s.readByte (indexAddr s.i r))

/-- The bytes `V0..VX` that FX55 stores (R154). -/
def regBlock (v : Vector Byte Config.numV) (x : Reg) : List Byte := v.toList.take (x.val + 1)

/-- `V[i] <- MemRead(I + i, 1)` for `i` in `0 .. X`; the order of the loads cannot be observed (R155). -/
def State.loadBlock (s : State) (x : Reg) : Vector Byte Config.numV :=
  s.v.mapIdx (fun k b => if k ≤ x.val then s.readByte (indexAddr s.i k) else b)

end Sys2Proof.Machine
end

