-- ==== Sys2Proof/Machine/Alu.lean ====
section
/-! DEFINITION. Register loads and arithmetic (spec/41_alu.md). Where a row writes both `V[X]` and VF, the writes
stand in the order R130 gives, which decides the case `X = F`. -/
namespace Sys2Proof.Machine

/-- 6XKK (R131). -/
def execLdImm (x : Reg) (kk : Byte) (s : State) : Result := .next (s.setReg x kk)

/-- 7XKK (R132): byte wraparound, no flag. -/
def execAddImm (x : Reg) (kk : Byte) (s : State) : Result := .next (s.setReg x (s.reg x + kk))

/-- 8XY0 (R133). -/
def execLdReg (x y : Reg) (s : State) : Result := .next (s.setReg x (s.reg y))

/-- 8XY1 (R134): VF is not reset. -/
def execOrReg (x y : Reg) (s : State) : Result := .next (s.setReg x (s.reg x ||| s.reg y))

/-- 8XY2 (R135). -/
def execAndReg (x y : Reg) (s : State) : Result := .next (s.setReg x (s.reg x &&& s.reg y))

/-- 8XY3 (R136). -/
def execXorReg (x y : Reg) (s : State) : Result := .next (s.setReg x (s.reg x ^^^ s.reg y))

/-- 8XY4 (R137): result, then carry. -/
def execAddReg (x y : Reg) (s : State) : Result :=
  .next ((s.setReg x (s.reg x + s.reg y)).setReg vf (carryFlag (s.reg x) (s.reg y)))

/-- 8XY5 (R138): result, then not-borrow. -/
def execSubReg (x y : Reg) (s : State) : Result :=
  .next ((s.setReg x (s.reg x - s.reg y)).setReg vf (notBorrowFlag (s.reg x) (s.reg y)))

/-- 8XY6 (R139): the bit shifted out goes to VF first, and the shift reads `V[X]` after that write. -/
def execShr (x _y : Reg) (s : State) : Result :=
  let s1 := s.setReg vf (lowBitFlag (s.reg x))
  .next (s1.setReg x (s1.reg x >>> 1))

/-- 8XY7 (R140): reverse subtract; result, then not-borrow. -/
def execSubn (x y : Reg) (s : State) : Result :=
  .next ((s.setReg x (s.reg y - s.reg x)).setReg vf (notBorrowFlag (s.reg y) (s.reg x)))

/-- 8XYE (R141): the bit shifted out goes to VF first, and the shift reads `V[X]` after that write. -/
def execShl (x _y : Reg) (s : State) : Result :=
  let s1 := s.setReg vf (highBitFlag (s.reg x))
  .next (s1.setReg x (s1.reg x <<< 1))

/-- CXKK (R142): `V[X] <- RandomByte() & KK`. -/
def execRnd (x : Reg) (kk : Byte) (s : State) : Result :=
  .next (s.randomByte.2.setReg x (s.randomByte.1 &&& kk))

end Sys2Proof.Machine
end

