-- ==== Sys2Proof/Machine/Control.lean ====
section
/-! DEFINITION. Control transfer (spec/40_control.md): the no-op, jumps, call and return, and the register and
immediate skips. Each meaning is an execute phase: `PC` already holds the address of the next word (R99). -/
namespace Sys2Proof.Machine

/-- 0000 (R110): nothing; the cycle counts the strike. -/
def execNop (s : State) : Result := .next s

/-- 00EE (R111): `PC <- Pop()`. -/
def execRet (s : State) : Result := .next (s.pop.2.jump s.pop.1)

/-- 1NNN (R112): `PC <- zext_16(NNN)`. -/
def execJp (nnn : Addr12) (s : State) : Result := .next (s.jump (addrOperand nnn))

/-- 2NNN (R113): `Push(PC)`, then `PC <- zext_16(NNN)`. -/
def execCall (nnn : Addr12) (s : State) : Result := .next ((s.push s.pc).jump (addrOperand nnn))

/-- 3XKK (R114): skip if `V[X] = KK`. -/
def execSeImm (x : Reg) (kk : Byte) (s : State) : Result := .next (s.skipIf (s.reg x == kk))

/-- 4XKK (R115): skip if `V[X] != KK`. -/
def execSneImm (x : Reg) (kk : Byte) (s : State) : Result := .next (s.skipIf (s.reg x != kk))

/-- 5XY0 (R116): skip if `V[X] = V[Y]`. -/
def execSeReg (x y : Reg) (s : State) : Result := .next (s.skipIf (s.reg x == s.reg y))

/-- 9XY0 (R117): skip if `V[X] != V[Y]`. -/
def execSneReg (x y : Reg) (s : State) : Result := .next (s.skipIf (s.reg x != s.reg y))

/-- BNNN (R118): `PC <- trunc_16(NNN + V[0])`. -/
def execJpV0 (nnn : Addr12) (s : State) : Result := .next (s.jump (offsetTarget nnn (s.reg v0)))

end Sys2Proof.Machine
end

