-- ==== Sys2Proof/Machine/Display.lean ====
section
/-! DEFINITION. The display instructions (spec/43_display.md). -/
namespace Sys2Proof.Machine

/-- The draw DXYN asks the framebuffer for: its bytes and its origin are read before VF is written (R168). -/
def State.spriteDraw (s : State) (x y : Reg) (n : Fin 16) : Draw :=
  s.fb.draw s.cfg (s.spriteBytes n.val) (s.reg x) (s.reg y)

/-- 00E0 (R167): `FbClear()` (R160); VF is not written. -/
def execCls (s : State) : Result := .next { s with fb := Frame.blank s.cfg }

/-- DXYN (R168): the sprite is XORed onto the screen and VF becomes the collision result under `COLLISION_MODE`. -/
def execDrw (x y : Reg) (n : Fin 16) (s : State) : Result :=
  let d := s.spriteDraw x y n
  .next ({ s with fb := d.fb }.setReg vf (flagByte (d.collision s.cfg.collisionMode)))

end Sys2Proof.Machine
end

