-- ==== Sys2Proof/Machine/Index.lean ====
section
/-! DEFINITION. The index register and the memory block instructions (spec/42_index_memory.md). -/
namespace Sys2Proof.Machine

/-- `I <- w`. -/
def State.setIndex (s : State) (w : Word) : State := { s with i := w }

/-- The bytes written at `I`, `I + 1`, … (R156). -/
def State.storeAtIndex (s : State) (bytes : List Byte) : State :=
  { s with mem := s.mem.writeBytes s.cfg.memSize s.i.toNat bytes }

/-- ANNN (R150). -/
def execLdI (nnn : Addr12) (s : State) : Result := .next (s.setIndex (addrOperand nnn))

/-- FX1E (R151): wraps at 16 bits; VF is not written. -/
def execAddI (x : Reg) (s : State) : Result := .next (s.setIndex (indexPlus s.i (s.reg x)))

/-- FX29 (R152). -/
def execLdF (x : Reg) (s : State) : Result := .next (s.setIndex (glyphAddr s.cfg.fontBase (s.reg x)))

/-- FX33 (R153): hundreds, tens and units at `I`, `I + 1`, `I + 2`. -/
def execLdB (x : Reg) (s : State) : Result := .next (s.storeAtIndex (decimalDigits (s.reg x)))

/-- FX55 (R154): `V0..VX` from `I` up; `I` is not written. -/
def execStoreRegs (x : Reg) (s : State) : Result := .next (s.storeAtIndex (regBlock s.v x))

/-- FX65 (R155): `V0..VX` from memory at `I` up; `I` is not written. -/
def execLoadRegs (x : Reg) (s : State) : Result := .next { s with v := s.loadBlock x }

end Sys2Proof.Machine
end

