-- ==== Sys2Proof/Machine/Keys.lean ====
section
/-! DEFINITION. Keyboard and timer instructions (spec/44_keys_timers.md). -/
namespace Sys2Proof.Machine

/-- EX9E (R178): skip if the key in the low 4 bits of `V[X]` is down. -/
def execSkp (x : Reg) (s : State) : Result := .next (s.skipIf (s.keyDown (s.reg x)))

/-- EXA1 (R179): skip if that key is up. -/
def execSknp (x : Reg) (s : State) : Result := .next (s.skipIf (!s.keyDown (s.reg x)))

/-- FX0A (R180): the lowest key down goes to `V[X]`; with none down the key-wait hold begins (R181). -/
def execLdVxK (x : Reg) (s : State) : Result :=
  match s.nextPressedKey with
  | some k => .next (s.setReg x (keyByte k))
  | none => .next { s with wait := some x }

/-- FX07 (R182). -/
def execLdVxDt (x : Reg) (s : State) : Result := .next (s.setReg x s.dt)

/-- FX15 (R183). -/
def execLdDtVx (x : Reg) (s : State) : Result := .next { s with dt := s.reg x }

/-- FX18 (R184). -/
def execLdStVx (x : Reg) (s : State) : Result := .next { s with st := s.reg x }

end Sys2Proof.Machine
end

