-- ==== Sys2Proof/Machine/Unrecognized.lean ====
section
/-! DEFINITION. The execute phase of an unrecognized word (spec/60_exceptions.md R193, R194). -/
namespace Sys2Proof.Machine

/-- Reports the word and the address it was fetched from, and is otherwise a no-op. -/
def execUnrecognized (w : Word) (s : State) : Result :=
  .next (s.report (.unrecognized w (prevPc s.cfg s.pc)))

end Sys2Proof.Machine
end

