-- ==== Sys2Proof/Machine/Cycle.lean ====
section
/-! DEFINITION. The instruction cycle (spec/30_encoding.md R98), the steps of spec/60_exceptions.md R208 with what
enables each, and the choice of the next one. -/
namespace Sys2Proof.Machine

/-! ### The instruction cycle (R98) -/

/-- The fetch phase for the word `w` at `PC`: `PC` moves on and the strike is counted. -/
def State.fetched (s : State) (w : Word) : State := (s.jump (nextPc s.cfg s.pc)).countStrike w

/-- The end of the cycle: an outcome's state halts if its strikes have reached `HALT_STRIKES`. -/
def haltCheck : Result → Result
  | .next s => .next s.haltIfStruck
  | .fault r => .fault r
  | .refused r => .refused r

/-- The word the next instruction cycle fetches. -/
def State.nextWord (s : State) : Word := s.fetchWord s.pc.toNat

/-- "exactly one fetch-decode-execute step" (R98). -/
def runCycle (s : State) : Result :=
  haltCheck (exec (decodeWord s.nextWord) (s.fetched s.nextWord))

/-! ### The stop allowance and the late tick (R206 to R208; log 8, log 9) -/

/-- A cycle run after `stop()` uses the one cycle that is still allowed. -/
def State.spendCycle (s : State) : State :=
  if s.stopReq then { s with env := { s.env with stopCycleLeft := false } } else s

/-- A tick uses the late tick if the core is halted, and after `stop()` the one tick that is still allowed. -/
def State.spendTick (s : State) : State :=
  if s.run = .halted then { s with env := { s.env with lateTick := false } }
  else if s.stopReq then { s with env := { s.env with stopTickLeft := false } } else s

/-- Before a core step: `ST` is kept for a stale audio poll (R222; log 11). -/
def State.beginCoreStep (s : State) : State := { s with env := { s.env with stBefore := s.st } }

/-! ### The effect of each step of R208 -/

/-- `KeyWaitEnd` (R181): the waiting FX0A stores the lowest key down and the wait is over. -/
def State.endKeyWait (s : State) : State :=
  match s.wait, s.nextPressedKey with
  | some x, some k => { s.setReg x (keyByte k) with wait := none }
  | _, _ => s

/-- `StopSeen` (R206): `run <- Halted`, unreported; a tick of the same iteration may follow (R207). -/
def State.seeStop (s : State) : State :=
  { s with run := .halted, env := { s.env with lateTick := true } }

/-- `start()` (R204): acts only on an idle core. -/
def State.start (s : State) : State := if s.run = .idle then { s with run := .running } else s

/-- `stop()` (R204, R206, R208): sets the stop flag, and ends an idle core at once (log 17). -/
def State.stop (s : State) : State :=
  { s with stopReq := true, run := if s.run = .idle then .halted else s.run }

/-- `snapshot()` (R165): the renderer is handed an independent copy of the grid (log 12). -/
def State.takeSnapshot (s : State) : State :=
  { s with env := { s.env with snapshots := s.env.snapshots ++ [s.fb] } }

/-- What `SoundPoll` answers: for the current state, or for the one before the most recent core step (R222). -/
def State.soundAnswer (s : State) (stale : Bool) : Bool :=
  soundActive (if stale then s.env.stBefore else s.st)

/-- `SoundPoll` (R222): the audio collaborator is handed its answer (log 12). -/
def State.pollSound (s : State) (stale : Bool) : State :=
  { s with env := { s.env with polls := s.env.polls ++ [s.soundAnswer stale] } }

/-- The "enabled when" column of R208. -/
def Move.enabled (m : Move) (s : State) : Bool :=
  match m with
  | .instructionCycle =>
    s.run == .running && s.wait.isNone && (!s.stopReq || s.env.stopCycleLeft)
  | .keyWaitEnd => s.run == .running && s.wait.isSome && s.nextPressedKey.isSome
  | .timerTick =>
    (s.run == .running && s.wait.isNone && (!s.stopReq || s.env.stopTickLeft))
      || (s.run == .halted && s.env.lateTick)
  | .stopSeen => s.run == .running && s.wait.isNone && s.stopReq
  | .start | .stop | .keySet _ | .keyUnset _ | .snapshot | .soundPoll _ => true

/-- The "effect" column of R208, of a step that is enabled. -/
def Move.effect (m : Move) (s : State) : Result :=
  match m with
  | .instructionCycle => runCycle s.beginCoreStep.spendCycle
  | .keyWaitEnd => .next s.beginCoreStep.endKeyWait
  | .timerTick => .next s.beginCoreStep.spendTick.tick
  | .stopSeen => .next s.beginCoreStep.seeStop
  | .start => .next s.start
  | .stop => .next s.stop
  | .keySet k => .next (s.setKey k)
  | .keyUnset k => .next (s.unsetKey k)
  | .snapshot => .next s.takeSnapshot
  | .soundPoll stale => .next (s.pollSound stale)

/-- What passing over a step that is not enabled leaves (log 6): nothing changes, but that a step of the core's loop
that finds the core halted shows that the loop iteration of the halt is over, and with it the late tick (log 9). -/
def Move.passOver (m : Move) (s : State) : State :=
  match m with
  | .instructionCycle | .keyWaitEnd | .stopSeen =>
    if s.run = .halted then { s with env := { s.env with lateTick := false } } else s
  | .timerTick | .start | .stop | .keySet _ | .keyUnset _ | .snapshot | .soundPoll _ => s

/-- A step taken if it is enabled, and passed over if it is not (log 6). -/
def Move.perform (m : Move) (s : State) : Result :=
  if m.enabled s then m.effect s else .next (m.passOver s)

/-! ### Which step is next (log 6, log 7) -/

/-- The state with its schedule replaced. -/
def State.withSchedule (s : State) (l : List Move) : State :=
  { s with env := { s.env with schedule := l } }

/-- The step that closes round `n`: the core's four steps take turns, so that none is put off for ever. For the
cycle and the tick that is the fairness of R212; for the others, the poll of R181 and the check of R206 (log 15). -/
def closingStep (n : Nat) : Move :=
  match n % 4 with
  | 0 => .instructionCycle
  | 1 => .timerTick
  | 2 => .keyWaitEnd
  | _ => .stopSeen

/-- The `n`-th round of moves: a free list of any moves, then the step that closes the round. -/
def roundMoves (n : Nat) : List Move := Config.freeMoves n ++ [closingStep n]

/-- With nothing scheduled, the next round is drawn; nothing else changes (log 7). -/
def State.drawRound (s : State) : State :=
  { s with env := { s.env with schedule := roundMoves s.env.rounds, rounds := s.env.rounds + 1 } }

/-- One step of R208, the head of the schedule; with nothing scheduled, the next round is drawn (log 7). -/
def nextStep (s : State) : Result :=
  match s.env.schedule with
  | m :: rest => m.perform (s.withSchedule rest)
  | [] => .next s.drawRound

/-- Makes the very next step fetch and run the word `w` at `PC` (log 16): the word's two bytes at `PC` and `PC + 1`,
a running core that waits for no key, a cycle that a pending stop still allows, and a cycle as the next move. -/
def State.placeWord (s : State) (w : Word) : State :=
  { s with
    mem := s.mem.writeBytes s.cfg.memSize s.pc.toNat [w.extractLsb' 8 8, w.extractLsb' 0 8]
    run := .running
    wait := none
    env := { s.env with schedule := .instructionCycle :: s.env.schedule, stopCycleLeft := true } }

end Sys2Proof.Machine
end

