-- ==== Sys2Proof/Machine/Step.lean ====
section
/-! DEFINITION. One step of the machine, and the host's placement of an instruction where the next step fetches it. -/
namespace Sys2Proof.Machine

/-- One atomic step of R208 (spec/60_exceptions.md). -/
def step (s : State) : Host.Outcome State Fault Refusal := nextStep s

/-- `s` with the instruction whose bits are `w` placed so that the very next step fetches and runs it (log 16);
the bits above `nbits` are zero, and an instruction is one 16-bit word (R90). -/
def State.withFetchWord (s : State) (nbits w : Nat) : State :=
  s.placeWord (BitVec.ofNat 16 (w % 2 ^ nbits))

end Sys2Proof.Machine
end

