-- ==== Sys2Proof/Machine/Launch.lean ====
section
/-! DEFINITION. Construction, the ROM load and the launch (spec/70_reset_and_hazards.md R230 to R235), which come
before any step of the machine (log 13). -/
namespace Sys2Proof.Machine

/-- The longest ROM a launch admits, `MEM_SIZE - PROG_ORIGIN` bytes (R233). -/
def romSpace (c : RunConfig) : Nat := c.memSize - c.progOrigin

/-- `LoadRom(rom)` (R232): the bytes verbatim from `PROG_ORIGIN` up. -/
def loadRom (c : RunConfig) (m : Memory) (rom : List Byte) : Memory := m.writeBytes c.memSize c.progOrigin rom

/-- `Construct(config, rom)` (R230), refusing what R10, log 1 and R233 rule out. -/
def construct (c : RunConfig) (rom : List Byte) : Result :=
  if !c.legal then .refused .illegalConfig
  else if romSpace c < rom.length then .refused .romTooLong
  else .next { State.fresh c with mem := loadRom c (Memory.reset c) rom }

/-- The controller's three duties in order: construct, load, `start()` (R235); a ROM that cannot be read is fatal
before any core state exists (R234). -/
def launch (c : RunConfig) (rom : Option (List Byte)) : Result :=
  match rom with
  | none => .fault .romUnreadable
  | some bytes =>
    match construct c bytes with
    | .next s => .next s.start
    | .fault r => .fault r
    | .refused r => .refused r

end Sys2Proof.Machine
end

