-- ==== Sys2Proof/Safety.lean ====
section
/-! DEFINITION. The terms claims are stated in: the invariant of the machine, which instruction may write what, and
the spec's own description of a sprite, of a run of pushes and pops, and of an encoding row. -/
namespace Sys2Proof.Machine

/-! ### The invariant -/

/-- A slot holds an address inside a memory of `size` bytes, as every push leaves it (spec/40_control.md R113). -/
def Slot.inMemory (size : Nat) : Slot → Bool
  | .unwritten => true
  | .pushed a => decide (a.toNat < size)

/-- A `Halt` event (R194). -/
def DiagEvent.isHalt : DiagEvent → Bool
  | .unrecognized _ _ => false
  | .halt _ => true

/-- What is true of every state a run reaches; each size is the core's own parameter. -/
structure State.Inv (s : State) : Prop where
  /-- the configuration meets R10 and the three constraints of log 1 -/
  config : s.cfg.legal = true
  /-- memory is in canonical form -/
  memory : s.mem.wf s.cfg.memSize
  /-- the stack has STACK_DEPTH slots and SP names one of them (R44) -/
  stack : s.stack.length = s.cfg.stackDepth ∧ s.sp < s.cfg.stackDepth
  /-- the framebuffer is SCREEN_H rows of SCREEN_W pixels (R55) -/
  screen : s.fb.wf s.cfg
  /-- strikes range over 0 .. HALT_STRIKES (R30) -/
  strikes : s.strikes ≤ s.cfg.haltStrikes
  /-- a core that has not halted has fewer strikes than halt it (R197) -/
  striking : s.run ≠ .halted → s.strikes < s.cfg.haltStrikes
  /-- a halt is reported, once, exactly when the strikes have reached HALT_STRIKES (R191, R197) -/
  reported : (s.strikes = s.cfg.haltStrikes → (s.diag.filter DiagEvent.isHalt).length = 1) ∧
    (s.strikes ≠ s.cfg.haltStrikes → (s.diag.filter DiagEvent.isHalt).length = 0)
  /-- a pushed return address is below MEM_SIZE (R113) -/
  returns : ∀ slot ∈ s.stack, slot.inMemory s.cfg.memSize = true
  /-- only a running core waits for a key (R204, R206) -/
  waiting : s.wait ≠ none → s.run = .running
  /-- only a halted core has a late tick left (R207) -/
  late : s.env.lateTick = true → s.run = .halted
  /-- a stop ends an idle core at once (R204) -/
  idle : s.run = .idle → s.stopReq = false
  /-- without a stop no allowance is used up (R206) -/
  allowance : s.stopReq = false → s.env.stopCycleLeft = true ∧ s.env.stopTickLeft = true

/-! ### Which step is next -/

/-- The next step is an instruction cycle, and R208 enables it: the core runs, no key is waited for, and a pending stop
still allows a cycle; `rest` is scheduled after it. -/
def State.cycleNext (s : State) (rest : List Move) : Prop :=
  s.env.schedule = .instructionCycle :: rest ∧ s.run = .running ∧ s.wait = none ∧
    (s.stopReq = true → s.env.stopCycleLeft = true)

/-- R208's "agent" column: the steps of the core and its timer unit, as against those of the host agents. -/
def isCoreStep : Move → Bool
  | .instructionCycle | .keyWaitEnd | .timerTick | .stopSeen => true
  | .start | .stop | .keySet _ | .keyUnset _ | .snapshot | .soundPoll _ => false

/-! ### Which instruction may write what -/

/-- R33 and R42: the registers an instruction writes, as destination or as flag. -/
def writesReg (i : Instr) (r : Reg) : Bool :=
  match i with
  | .ldImm x _ | .addImm x _ | .rnd x _ => r == x
  | .ldReg x _ | .orReg x _ | .andReg x _ | .xorReg x _ => r == x
  | .addReg x _ | .subReg x _ | .shr x _ | .subn x _ | .shl x _ => r == x || r == vf
  | .drw _ _ _ => r == vf
  | .ldVxDt x | .ldVxK x => r == x
  | .loadRegs x => decide (r ≤ x)
  | .nop | .cls | .ret | .jp _ | .call _ | .jpV0 _ => false
  | .seImm _ _ | .sneImm _ _ | .seReg _ _ | .sneReg _ _ | .skp _ | .sknp _ => false
  | .ldI _ | .addI _ | .ldF _ | .ldB _ | .storeRegs _ => false
  | .ldDtVx _ | .ldStVx _ | .unrecognized _ => false

/-- R100: the skip instructions, which move PC by one more word or not at all. -/
def isSkip : Instr → Bool
  | .seImm _ _ | .sneImm _ _ | .seReg _ _ | .sneReg _ _ | .skp _ | .sknp _ => true
  | .nop | .cls | .ret | .jp _ | .call _ | .jpV0 _ => false
  | .ldImm _ _ | .addImm _ _ | .rnd _ _ | .ldReg _ _ | .orReg _ _ | .andReg _ _ | .xorReg _ _ => false
  | .addReg _ _ | .subReg _ _ | .shr _ _ | .subn _ _ | .shl _ _ | .drw _ _ _ => false
  | .ldVxDt _ | .ldVxK _ | .loadRegs _ | .ldI _ | .addI _ | .ldF _ | .ldB _ | .storeRegs _ => false
  | .ldDtVx _ | .ldStVx _ | .unrecognized _ => false

/-- R36: the instructions that set PC to a target of their own. -/
def isTransfer : Instr → Bool
  | .ret | .jp _ | .call _ | .jpV0 _ => true
  | .seImm _ _ | .sneImm _ _ | .seReg _ _ | .sneReg _ _ | .skp _ | .sknp _ => false
  | .nop | .cls => false
  | .ldImm _ _ | .addImm _ _ | .rnd _ _ | .ldReg _ _ | .orReg _ _ | .andReg _ _ | .xorReg _ _ => false
  | .addReg _ _ | .subReg _ _ | .shr _ _ | .subn _ _ | .shl _ _ | .drw _ _ _ => false
  | .ldVxDt _ | .ldVxK _ | .loadRegs _ | .ldI _ | .addI _ | .ldF _ | .ldB _ | .storeRegs _ => false
  | .ldDtVx _ | .ldStVx _ | .unrecognized _ => false

/-- R83: how many bytes an instruction stores, from `I` up. -/
def storedBytes : Instr → Nat
  | .ldB _ => 3
  | .storeRegs x => x.val + 1
  | .nop | .cls | .ret | .jp _ | .call _ | .jpV0 _ => 0
  | .seImm _ _ | .sneImm _ _ | .seReg _ _ | .sneReg _ _ | .skp _ | .sknp _ => 0
  | .ldImm _ _ | .addImm _ _ | .rnd _ _ | .ldReg _ _ | .orReg _ _ | .andReg _ _ | .xorReg _ _ => 0
  | .addReg _ _ | .subReg _ _ | .shr _ _ | .subn _ _ | .shl _ _ | .drw _ _ _ => 0
  | .ldVxDt _ | .ldVxK _ | .loadRegs _ | .ldI _ | .addI _ | .ldF _ => 0
  | .ldDtVx _ | .ldStVx _ | .unrecognized _ => 0

/-! ### The spec's description of a sprite (R161, R162) -/

/-- The sprite, its top left corner at `(x0, y0)`, has a 1 bit for column `u` and row `w`: bit `7 - (u - x0)` of the
byte of row `w - y0`, the most significant bit leftmost. -/
def spriteSets (bytes : List Byte) (x0 y0 u w : Nat) : Bool :=
  decide (x0 ≤ u ∧ u < x0 + 8 ∧ y0 ≤ w) &&
    match bytes[w - y0]? with
    | some b => decide (b.toNat / 2 ^ (7 - (u - x0)) % 2 = 1)
    | none => false

/-- The pixels a draw toggles, in the scan order of R161: a 1 bit of the sprite inside the screen. -/
def toggledPixels (c : RunConfig) (bytes : List Byte) (x0 y0 : Nat) : List (Nat × Nat) :=
  ((List.range bytes.length).flatMap fun r => (List.range 8).map fun k => (x0 + k, y0 + r)).filter fun p =>
    spriteSets bytes x0 y0 p.1 p.2 && decide (p.1 < c.screenW ∧ p.2 < c.screenH)

/-- The collision of a draw onto `f` under `COLLISION_MODE`: R163 in mode `any`, R164 in mode `last`. -/
def drawCollides (c : RunConfig) (f : Frame) (bytes : List Byte) (x0 y0 : Nat) : Bool :=
  match c.collisionMode with
  | .any => (toggledPixels c bytes x0 y0).any fun p => f.pixel p.1 p.2
  | .last =>
    match (toggledPixels c bytes x0 y0).getLast? with
    | some p => f.pixel p.1 p.2
    | none => false

/-! ### Runs of pushes and pops -/

/-- Pushes a list, its head first. -/
def State.pushAll (s : State) (l : List Word) : State := l.foldl State.push s

/-- Pops `n` times: the popped addresses in order, and the state after. -/
def State.popAll : Nat → State → List Word × State
  | 0, s => ([], s)
  | n + 1, s => (s.pop.1 :: (State.popAll n s.pop.2).1, (State.popAll n s.pop.2).2)

/-! ### Encoding rows -/

/-- The instruction has a word that matches the row `(mask, mtch)` of R95 and decodes to it. -/
def EncodedBy (i : Instr) (mask mtch : Word) : Prop :=
  encode i &&& mask = mtch ∧ decodeWord (encode i) = i

end Sys2Proof.Machine
end

