-- ==== Sys2Proof/Certificates/Slice0/Obligations.lean ====
section
/-! DEFINITION. The statements for the provers. Every docstring names the rule of spec/ it formalises. A statement
about an instruction's effect is about `exec`, the execute phase: `PC` already holds the address of the next word
(R20, R99). An equation `exec i s = .next { s with … }` states the whole next state, so its frame with it. Every size
is the core's own parameter (R8), read off `s.cfg`; a statement whose arithmetic needs the constraints of R10 has
`s.cfg.legal = true` as a premise, which is a clause of the invariant; beside R10 it asks for a screen that is not empty
and a positive HALT_STRIKES, which are the model's (log 1, DEDUCED). -/
open Sys2Proof Sys2Proof.Machine

/-! ### Encoding -/

/-- R92, R95, R102: decoding the word of a well-formed instruction gives it back, at every value of every operand; so
does decoding its two bytes, whatever follows them. -/
def Obligations.DecodeEncodeRoundTrip : Prop :=
  ∀ i : Instr, i.wf = true →
    decodeWord (encode i) = i ∧ ∀ rest : List Byte, decode (encodeBytes i ++ rest) = .ok (i, rest)

/-- R90, R96, R101: every word decodes to a well-formed instruction whose word it is, so no bit is dropped. -/
def Obligations.EncodeDecodeRoundTrip : Prop :=
  ∀ w : Word, (decodeWord w).wf = true ∧ encode (decodeWord w) = w

/-- R94 against R95, R96: the dispatching decoder answers an instruction of the row the mask table gives the word, it
answers `unrecognized` exactly where no row matches, and no word matches two rows. -/
def Obligations.DecoderAgreesWithMaskTable : Prop :=
  ∀ w : Word,
    ((Decode.patterns.filter (Decode.matchesRow w)).length ≤ 1) ∧
    (Decode.recognized w = true →
      Decode.rowOf (decodeWord w) ∈ Decode.patterns ∧ Decode.matchesRow w (Decode.rowOf (decodeWord w)) = true) ∧
    (Decode.recognized w = false ↔ decodeWord w = .unrecognized w)

/-- R92, R95: one word of each family, read off the table of patterns by hand. -/
def Obligations.SampleWordsDecode : Prop :=
  decodeWord 0x00E0#16 = .cls ∧ decodeWord 0x1234#16 = .jp 0x234#12 ∧ decodeWord 0x5120#16 = .seReg 1 2 ∧
    decodeWord 0x6A05#16 = .ldImm 10 0x05#8 ∧ decodeWord 0x8235#16 = .subReg 2 3 ∧
    decodeWord 0xA300#16 = .ldI 0x300#12 ∧ decodeWord 0xD125#16 = .drw 1 2 5 ∧ decodeWord 0xE0A1#16 = .sknp 0 ∧
    decodeWord 0xF265#16 = .loadRegs 2 ∧ decodeWord 0x5121#16 = .unrecognized 0x5121#16

/-! ### Control transfer -/

/-- R110: the execute phase does nothing; the cycle that fetched the word moves PC on and counts the strike, and below
the halting strike that is all. -/
def Obligations.NopChangesNothing : Prop :=
  EncodedBy .nop 0xFFFF#16 0x0000#16 ∧ (∀ s : State, exec .nop s = .next s) ∧
  ∀ s : State, s.cfg.legal = true → s.nextWord = 0x0000#16 → s.strikes + 1 ≠ s.cfg.haltStrikes →
    ∃ pc' : Word, pc'.toNat = (s.pc.toNat + 2) % s.cfg.memSize ∧
      runCycle s = .next { s with pc := pc', strikes := s.strikes + 1 }

/-- R111, with R46 and R48: a pushed slot gives its address to PC; a slot no push has written gives a draw, a free
value, and the draw counter moves on. That clause rests on the model's mark of such a slot (log 3, DESIGN CHOICE). -/
def Obligations.RetPopsReturnAddress : Prop :=
  EncodedBy .ret 0xFFFF#16 0x00EE#16 ∧
  ∀ s : State,
    (∀ a, s.stack[s.sp]? = some (.pushed a) →
      exec .ret s = .next { s with pc := a, sp := (s.sp + s.cfg.stackDepth - 1) % s.cfg.stackDepth }) ∧
    ((∀ a, s.stack[s.sp]? ≠ some (.pushed a)) →
      exec .ret s = .next { s with
        pc := Config.unwrittenSlot s.draws, sp := (s.sp + s.cfg.stackDepth - 1) % s.cfg.stackDepth,
        draws := s.draws + 1 })

/-- R112, R118: 1NNN sets PC to NNN; BNNN sets it to NNN + V0, a sum stored in 16 bits that may reach beyond MEM_SIZE.
-/
def Obligations.JumpsSetPc : Prop :=
  ∀ (nnn : Addr12) (s : State),
    EncodedBy (.jp nnn) 0xF000#16 0x1000#16 ∧ EncodedBy (.jpV0 nnn) 0xF000#16 0xB000#16 ∧
    ∃ a b : Word, a.toNat = nnn.toNat ∧ b.toNat = nnn.toNat + (s.v[0]).toNat ∧
      exec (.jp nnn) s = .next { s with pc := a } ∧ exec (.jpV0 nnn) s = .next { s with pc := b }

/-- R113, with R45: the pushed address is the PC the fetch left, and the push wraps from the last slot to slot 0. -/
def Obligations.CallPushesAndJumps : Prop :=
  ∀ (nnn : Addr12) (s : State), EncodedBy (.call nnn) 0xF000#16 0x2000#16 ∧
    ∃ (a : Word) (sp' : Nat) (k : List Slot), a.toNat = nnn.toNat ∧ sp' = (s.sp + 1) % s.cfg.stackDepth ∧
      exec (.call nnn) s = .next { s with pc := a, sp := sp', stack := k } ∧ k.length = s.stack.length ∧
      (s.stack.length = s.cfg.stackDepth → s.sp < s.cfg.stackDepth → k[sp']? = some (.pushed s.pc)) ∧
      ∀ j, j ≠ sp' → k[j]? = s.stack[j]?

/-- R114, R115, with R100: the skip adds 2 modulo MEM_SIZE. -/
def Obligations.ImmediateSkips : Prop :=
  ∀ (x : Reg) (kk : Byte) (s : State), s.cfg.legal = true →
    EncodedBy (.seImm x kk) 0xF000#16 0x3000#16 ∧ EncodedBy (.sneImm x kk) 0xF000#16 0x4000#16 ∧
    ∃ pc' : Word, pc'.toNat = (s.pc.toNat + 2) % s.cfg.memSize ∧
      exec (.seImm x kk) s = .next { s with pc := if s.v[x] = kk then pc' else s.pc } ∧
      exec (.sneImm x kk) s = .next { s with pc := if s.v[x] = kk then s.pc else pc' }

/-- R116, R117, with R100. -/
def Obligations.RegisterSkips : Prop :=
  ∀ (x y : Reg) (s : State), s.cfg.legal = true →
    EncodedBy (.seReg x y) 0xF00F#16 0x5000#16 ∧ EncodedBy (.sneReg x y) 0xF00F#16 0x9000#16 ∧
    ∃ pc' : Word, pc'.toNat = (s.pc.toNat + 2) % s.cfg.memSize ∧
      exec (.seReg x y) s = .next { s with pc := if s.v[x] = s.v[y] then pc' else s.pc } ∧
      exec (.sneReg x y) s = .next { s with pc := if s.v[x] = s.v[y] then s.pc else pc' }

/-! ### Loads and arithmetic -/

/-- R131, R133. -/
def Obligations.RegisterLoads : Prop :=
  ∀ (x y : Reg) (kk : Byte) (s : State),
    EncodedBy (.ldImm x kk) 0xF000#16 0x6000#16 ∧ EncodedBy (.ldReg x y) 0xF00F#16 0x8000#16 ∧
    exec (.ldImm x kk) s = .next { s with v := s.v.set x kk } ∧
    exec (.ldReg x y) s = .next { s with v := s.v.set x s.v[y] }

/-- R132: byte wraparound, and VF is not written (unless it is the destination). -/
def Obligations.AddImmediateWraps : Prop :=
  ∀ (x : Reg) (kk : Byte) (s : State), EncodedBy (.addImm x kk) 0xF000#16 0x7000#16 ∧
    ∃ r : Byte, r.toNat = ((s.v[x]).toNat + kk.toNat) % 256 ∧
      exec (.addImm x kk) s = .next { s with v := s.v.set x r }

/-- R134, R135, R136: bit by bit, with no flag. -/
def Obligations.BitwiseOperations : Prop :=
  ∀ (x y : Reg) (s : State),
    EncodedBy (.orReg x y) 0xF00F#16 0x8001#16 ∧ EncodedBy (.andReg x y) 0xF00F#16 0x8002#16 ∧
    EncodedBy (.xorReg x y) 0xF00F#16 0x8003#16 ∧
    ∃ o a e : Byte,
      (∀ k < 8, o.getLsbD k = ((s.v[x]).getLsbD k || (s.v[y]).getLsbD k) ∧
        a.getLsbD k = ((s.v[x]).getLsbD k && (s.v[y]).getLsbD k) ∧
        e.getLsbD k = ((s.v[x]).getLsbD k != (s.v[y]).getLsbD k)) ∧
      exec (.orReg x y) s = .next { s with v := s.v.set x o } ∧
      exec (.andReg x y) s = .next { s with v := s.v.set x a } ∧
      exec (.xorReg x y) s = .next { s with v := s.v.set x e }

/-- R137, with R130: the result, then the carry, which is what VF keeps when `X = F`. -/
def Obligations.AddSetsCarry : Prop :=
  ∀ (x y : Reg) (s : State), EncodedBy (.addReg x y) 0xF00F#16 0x8004#16 ∧
    ∃ r f : Byte, r.toNat = ((s.v[x]).toNat + (s.v[y]).toNat) % 256 ∧
      f.toNat = (if 255 < (s.v[x]).toNat + (s.v[y]).toNat then 1 else 0) ∧
      exec (.addReg x y) s = .next { s with v := (s.v.set x r).set vf f }

/-- R138, R140, with R130: the result, then not-borrow. -/
def Obligations.SubtractionsSetNotBorrow : Prop :=
  ∀ (x y : Reg) (s : State),
    EncodedBy (.subReg x y) 0xF00F#16 0x8005#16 ∧ EncodedBy (.subn x y) 0xF00F#16 0x8007#16 ∧
    (∃ r f : Byte, r.toNat = ((s.v[x]).toNat + 256 - (s.v[y]).toNat) % 256 ∧
      f.toNat = (if (s.v[x]).toNat < (s.v[y]).toNat then 0 else 1) ∧
      exec (.subReg x y) s = .next { s with v := (s.v.set x r).set vf f }) ∧
    (∃ r f : Byte, r.toNat = ((s.v[y]).toNat + 256 - (s.v[x]).toNat) % 256 ∧
      f.toNat = (if (s.v[y]).toNat < (s.v[x]).toNat then 0 else 1) ∧
      exec (.subn x y) s = .next { s with v := (s.v.set x r).set vf f })

/-- R139, R141, with R102 and R130: for `X ≠ F` the result and the bit shifted out; for `X = F` the shift of the flag
just written, 0 for a right shift and 2 or 0 for a left shift; `Y` makes no difference. The `X = F` clauses are D11,
the spec's own decision on the order of flag and result, which U6 asks a claim about 8FY6 or 8FYE to name. -/
def Obligations.ShiftsMoveOneBit : Prop :=
  ∀ (x y : Reg) (s : State),
    EncodedBy (.shr x y) 0xF00F#16 0x8006#16 ∧ EncodedBy (.shl x y) 0xF00F#16 0x800E#16 ∧
    (∃ v', exec (.shr x y) s = .next { s with v := v' } ∧
      (∀ r : Reg, r ≠ x → r ≠ vf → v'[r] = s.v[r]) ∧
      (x ≠ vf → (v'[x]).toNat = (s.v[x]).toNat / 2 ∧ (v'[vf]).toNat = (s.v[x]).toNat % 2) ∧
      (x = vf → (v'[vf]).toNat = 0)) ∧
    (∃ v', exec (.shl x y) s = .next { s with v := v' } ∧
      (∀ r : Reg, r ≠ x → r ≠ vf → v'[r] = s.v[r]) ∧
      (x ≠ vf → (v'[x]).toNat = (s.v[x]).toNat * 2 % 256 ∧ (v'[vf]).toNat = (s.v[x]).toNat / 128) ∧
      (x = vf → (v'[vf]).toNat = if 128 ≤ (s.v[x]).toNat then 2 else 0))

/-- R142, with R145: the destination is the draw masked by KK, whatever the draw. That the draw is the free value
`Config.randomByte` at the draw counter, and that the counter moves on, is the model's (log 4, DESIGN CHOICE). -/
def Obligations.RandomByteIsMasked : Prop :=
  ∀ (x : Reg) (kk : Byte) (s : State), EncodedBy (.rnd x kk) 0xF000#16 0xC000#16 ∧
    ∃ r : Byte, (∀ k < 8, r.getLsbD k = ((Config.randomByte s.draws).getLsbD k && kk.getLsbD k)) ∧
      exec (.rnd x kk) s = .next { s with v := s.v.set x r, draws := s.draws + 1 }

/-! ### Index register and memory blocks -/

/-- R150, R151: ANNN sets I to NNN; FX1E adds `V[X]`, wraps at 16 bits, and does not write VF. -/
def Obligations.IndexLoadsAndAdds : Prop :=
  ∀ (nnn : Addr12) (x : Reg) (s : State),
    EncodedBy (.ldI nnn) 0xF000#16 0xA000#16 ∧ EncodedBy (.addI x) 0xF0FF#16 0xF01E#16 ∧
    ∃ a b : Word, a.toNat = nnn.toNat ∧ b.toNat = (s.i.toNat + (s.v[x]).toNat) % 65536 ∧
      exec (.ldI nnn) s = .next { s with i := a } ∧ exec (.addI x) s = .next { s with i := b }

/-- R152: all 8 bits of `V[X]` are used. -/
def Obligations.IndexPointsAtGlyph : Prop :=
  ∀ (x : Reg) (s : State), EncodedBy (.ldF x) 0xF0FF#16 0xF029#16 ∧
    ∃ a : Word, a.toNat = (s.cfg.fontBase + 5 * (s.v[x]).toNat) % 65536 ∧ exec (.ldF x) s = .next { s with i := a }

/-- R153, with R71: the three addresses wrap one by one; every other byte and I are unchanged. -/
def Obligations.DecimalDigitsAreStored : Prop :=
  ∀ (x : Reg) (s : State), s.cfg.legal = true → EncodedBy (.ldB x) 0xF0FF#16 0xF033#16 ∧
    ∃ m : Memory, exec (.ldB x) s = .next { s with mem := m } ∧
      (m.read s.cfg.memSize s.i.toNat).toNat = (s.v[x]).toNat / 100 ∧
      (m.read s.cfg.memSize (s.i.toNat + 1)).toNat = (s.v[x]).toNat / 10 % 10 ∧
      (m.read s.cfg.memSize (s.i.toNat + 2)).toNat = (s.v[x]).toNat % 10 ∧
      ∀ a, (∀ j < 3, a % s.cfg.memSize ≠ (s.i.toNat + j) % s.cfg.memSize) →
        m.read s.cfg.memSize a = s.readByte a

/-- R154, with R71: `V0..VX` at `I`, `I + 1`, …, wrapping one by one; every other byte and I are unchanged. -/
def Obligations.RegistersAreStored : Prop :=
  ∀ (x : Reg) (s : State), s.cfg.legal = true → EncodedBy (.storeRegs x) 0xF0FF#16 0xF055#16 ∧
    ∃ m : Memory, exec (.storeRegs x) s = .next { s with mem := m } ∧
      (∀ r : Reg, r ≤ x → m.read s.cfg.memSize (s.i.toNat + r.val) = s.v[r]) ∧
      ∀ a, (∀ r : Reg, r ≤ x → a % s.cfg.memSize ≠ (s.i.toNat + r.val) % s.cfg.memSize) →
        m.read s.cfg.memSize a = s.readByte a

/-- R155, with R71: `V0..VX` from memory at `I`, `I + 1`, …; the other registers and I are unchanged. -/
def Obligations.RegistersAreLoaded : Prop :=
  ∀ (x : Reg) (s : State), EncodedBy (.loadRegs x) 0xF0FF#16 0xF065#16 ∧
    ∃ v', exec (.loadRegs x) s = .next { s with v := v' } ∧
      ∀ r : Reg, v'[r] = if r ≤ x then s.readByte (s.i.toNat + r.val) else s.v[r]

/-! ### Display -/

/-- R167, with R160: every pixel off, on a frame of the core's own screen; VF is not written. -/
def Obligations.ClearTurnsEveryPixelOff : Prop :=
  EncodedBy .cls 0xFFFF#16 0x00E0#16 ∧
  ∀ s : State, ∃ f : Frame, f.wf s.cfg ∧ (∀ x y, f.pixel x y = false) ∧ exec .cls s = .next { s with fb := f }

/-- R161 to R164, R168: every sprite bit inside the screen is XORed onto its own pixel, from the origin taken modulo
the screen, and VF is the collision under the mode in force; the bytes and the origin are read before VF is written.
The frame's form is a clause of the invariant. -/
def Obligations.DrawXorsSprite : Prop :=
  ∀ (x y : Reg) (n : Fin 16) (s : State), s.fb.wf s.cfg → EncodedBy (.drw x y n) 0xF000#16 0xD000#16 ∧
    ∃ (f : Frame) (flag : Byte) (bytes : List Byte),
      (bytes.length = n.val ∧ ∀ r < n.val, bytes[r]? = some (s.readByte (s.i.toNat + r))) ∧ f.wf s.cfg ∧
      (∀ u w, u < s.cfg.screenW → w < s.cfg.screenH → f.pixel u w =
        (s.fb.pixel u w !=
          spriteSets bytes ((s.v[x]).toNat % s.cfg.screenW) ((s.v[y]).toNat % s.cfg.screenH) u w)) ∧
      (flag.toNat =
        if drawCollides s.cfg s.fb bytes ((s.v[x]).toNat % s.cfg.screenW) ((s.v[y]).toNat % s.cfg.screenH)
        then 1 else 0) ∧
      exec (.drw x y n) s = .next { s with fb := f, v := s.v.set vf flag }

/-- R169, which the spec derives: a second draw of the same sprite at the same origin restores the screen; in mode
`any` it reports a collision if the first turned a pixel on, in mode `last` if the last pixel the first toggled was
turned on by it. -/
def Obligations.SecondDrawRestoresScreen : Prop :=
  ∀ (c : RunConfig) (f : Frame) (bytes : List Byte) (xo yo : Byte), f.wf c →
    ((f.draw c bytes xo yo).fb.draw c bytes xo yo).fb = f ∧
    (∀ u w, f.pixel u w = false → (f.draw c bytes xo yo).fb.pixel u w = true →
      ((f.draw c bytes xo yo).fb.draw c bytes xo yo).collision .any = true) ∧
    (∀ p, (toggledPixels c bytes (xo.toNat % c.screenW) (yo.toNat % c.screenH)).getLast? = some p →
      f.pixel p.1 p.2 = false → ((f.draw c bytes xo yo).fb.draw c bytes xo yo).collision .last = true)

/-! ### Keys and timers -/

/-- R178, R179: the low 4 bits of `V[X]` select the key. -/
def Obligations.KeySkips : Prop :=
  ∀ (x : Reg) (s : State), s.cfg.legal = true →
    EncodedBy (.skp x) 0xF0FF#16 0xE09E#16 ∧ EncodedBy (.sknp x) 0xF0FF#16 0xE0A1#16 ∧
    ∃ (k : Key) (pc' : Word), k.val = (s.v[x]).toNat % 16 ∧ pc'.toNat = (s.pc.toNat + 2) % s.cfg.memSize ∧
      exec (.skp x) s = .next { s with pc := if s.keys[k] = true then pc' else s.pc } ∧
      exec (.sknp x) s = .next { s with pc := if s.keys[k] = true then s.pc else pc' }

/-- R180, with R176: the lowest key down goes to `V[X]` at once; with no key down the hold begins. -/
def Obligations.KeyWaitTakesLowestKey : Prop :=
  ∀ (x : Reg) (s : State), EncodedBy (.ldVxK x) 0xF0FF#16 0xF00A#16 ∧
    (∀ k : Key, s.keys[k] = true → (∀ j : Key, j < k → s.keys[j] = false) →
      ∃ b : Byte, b.toNat = k.val ∧ exec (.ldVxK x) s = .next { s with v := s.v.set x b }) ∧
    ((∀ k : Key, s.keys[k] = false) → exec (.ldVxK x) s = .next { s with wait := some x })

/-- R182, R183, R184. -/
def Obligations.TimerTransfers : Prop :=
  ∀ (x : Reg) (s : State),
    EncodedBy (.ldVxDt x) 0xF0FF#16 0xF007#16 ∧ EncodedBy (.ldDtVx x) 0xF0FF#16 0xF015#16 ∧
    EncodedBy (.ldStVx x) 0xF0FF#16 0xF018#16 ∧
    exec (.ldVxDt x) s = .next { s with v := s.v.set x s.dt } ∧
    exec (.ldDtVx x) s = .next { s with dt := s.v[x] } ∧
    exec (.ldStVx x) s = .next { s with st := s.v[x] }

/-! ### Unrecognized words -/

/-- R193, with R194: a no-op that reports the word and the address it was fetched from, `(PC - 2) mod MEM_SIZE`. -/
def Obligations.UnrecognizedIsReportedNop : Prop :=
  ∀ (w : Word) (s : State), s.cfg.legal = true →
    ∃ a : Word, a.toNat = (s.pc.toNat + s.cfg.memSize - 2) % s.cfg.memSize ∧
      exec (.unrecognized w) s = .next { s with diag := s.diag ++ [.unrecognized w a] }

/-! ### What no instruction changes -/

/-- R33, R42: an instruction writes only the V registers listed for it. -/
def Obligations.RegistersChangeOnlyAsListed : Prop :=
  ∀ (i : Instr) (s t : State) (r : Reg), exec i s = .next t → writesReg i r = false → t.v[r] = s.v[r]

/-- R36, R39, R40: PC beyond the fetch, I, DT and ST change only by the instructions listed for them. -/
def Obligations.PcIndexTimersChangeOnlyAsListed : Prop :=
  ∀ (i : Instr) (s t : State), exec i s = .next t →
    (s.cfg.legal = true → isSkip i = true → t.pc = s.pc ∨ t.pc.toNat = (s.pc.toNat + 2) % s.cfg.memSize) ∧
    (isSkip i = false → isTransfer i = false → t.pc = s.pc) ∧
    ((∀ nnn, i ≠ .ldI nnn) → (∀ x, i ≠ .addI x) → (∀ x, i ≠ .ldF x) → t.i = s.i) ∧
    ((∀ x, i ≠ .ldDtVx x) → t.dt = s.dt) ∧
    ((∀ x, i ≠ .ldStVx x) → t.st = s.st)

/-- R44, R74, R83: only CALL pushes and only RET pops, and only FX33 and FX55 write memory, at the addresses they
name. -/
def Obligations.StackMemoryChangeOnlyAsListed : Prop :=
  ∀ (i : Instr) (s t : State), exec i s = .next t →
    ((∀ nnn, i ≠ .call nnn) → t.stack = s.stack) ∧
    ((∀ nnn, i ≠ .call nnn) → i ≠ .ret → t.sp = s.sp) ∧
    (∀ a, (∀ j < storedBytes i, a % s.cfg.memSize ≠ (s.i.toNat + j) % s.cfg.memSize) → t.readByte a = s.readByte a)

/-- R31, R54, R55, R58: only CLS and DRW write the framebuffer, no instruction writes the keyboard, the run state, the
strike counter, the stop flag or the configuration, only FX0A enters a wait, only an unrecognized word is reported,
and only RND and RET take a draw. -/
def Obligations.DevicesControlChangeOnlyAsListed : Prop :=
  ∀ (i : Instr) (s t : State), exec i s = .next t →
    (i ≠ .cls → (∀ x y n, i ≠ .drw x y n) → t.fb = s.fb) ∧
    t.keys = s.keys ∧ t.run = s.run ∧ t.strikes = s.strikes ∧ t.stopReq = s.stopReq ∧ t.cfg = s.cfg ∧ t.env = s.env ∧
    ((∀ x, i ≠ .ldVxK x) → t.wait = s.wait) ∧
    ((∀ w, i ≠ .unrecognized w) → t.diag = s.diag) ∧
    (i ≠ .ret → (∀ x kk, i ≠ .rnd x kk) → t.draws = s.draws)

/-! ### The step -/

/-- R98, R99, with R208: where a cycle is the next move and R208 enables it, and the two bytes at PC decode to `i`, the
step is `exec` of `i` on the state after the fetch (PC on by 2 modulo MEM_SIZE, the strike counted, and of the model's
bookkeeping the schedule moved on, ST kept for a stale poll, and a pending stop's cycle used up), and then the halt
check. A cycle that R208 does not enable is passed over, and with nothing scheduled the next round is drawn; the
schedule and its rounds are the model's choice (log 6, log 7). -/
def Obligations.StepRunsDecodedInstruction : Prop :=
  (∀ (s : State) (rest : List Move) (i : Instr), s.cfg.legal = true → s.cycleNext rest →
    decode [s.readByte s.pc.toNat, s.readByte (s.pc.toNat + 1)] = .ok (i, []) →
    ∃ pc' : Word, pc'.toNat = (s.pc.toNat + 2) % s.cfg.memSize ∧
      step s = haltCheck (exec i { s with
        pc := pc',
        strikes := if s.readByte s.pc.toNat = 0 ∧ s.readByte (s.pc.toNat + 1) = 0 then s.strikes + 1 else 0,
        env := { s.env with
          schedule := rest, stBefore := s.st, stopCycleLeft := !s.stopReq && s.env.stopCycleLeft } })) ∧
  (∀ (s : State) (rest : List Move), s.env.schedule = .instructionCycle :: rest → ¬ s.cycleNext rest →
    step s = .next { s with env := { s.env with
      schedule := rest, lateTick := s.env.lateTick && decide (s.run ≠ .halted) } }) ∧
  (∀ s : State, s.env.schedule = [] →
    step s = .next { s with env := { s.env with
      schedule := roundMoves s.env.rounds, rounds := s.env.rounds + 1 } })

/-- R98 at the end of the cycle, R197: the state halts, and is reported, exactly when the strikes are HALT_STRIKES; a
late tick may follow (log 9). -/
def Obligations.CycleHaltsAtHaltStrikes : Prop :=
  ∀ t : State, t.cfg.legal = true →
    (t.strikes ≠ t.cfg.haltStrikes → haltCheck (.next t) = .next t) ∧
    (t.strikes = t.cfg.haltStrikes → ∃ a : Word, a.toNat = (t.pc.toNat + t.cfg.memSize - 2) % t.cfg.memSize ∧
      haltCheck (.next t) =
        .next { t with run := .halted, diag := t.diag ++ [.halt a], env := { t.env with lateTick := true } })

/-- The placement the host uses (log 16): after it, the very next step runs the placed word, from every state: the
word's two bytes at PC and PC + 1, high byte first, the core running, no wait, one cycle allowed, and a cycle as the
next move; everything else as before. -/
def Obligations.PlacedWordRuns : Prop :=
  ∀ (s : State) (w : Word), s.cfg.legal = true → ∃ (pc' : Word) (m : Memory),
    pc'.toNat = (s.pc.toNat + 2) % s.cfg.memSize ∧
    (m.read s.cfg.memSize s.pc.toNat).toNat = w.toNat / 256 ∧
    (m.read s.cfg.memSize (s.pc.toNat + 1)).toNat = w.toNat % 256 ∧
    (∀ a, a % s.cfg.memSize ≠ s.pc.toNat % s.cfg.memSize → a % s.cfg.memSize ≠ (s.pc.toNat + 1) % s.cfg.memSize →
      m.read s.cfg.memSize a = s.readByte a) ∧
    step (s.withFetchWord 16 w.toNat) = haltCheck (exec (decodeWord w) { s with
      pc := pc', strikes := if w = 0 then s.strikes + 1 else 0, mem := m, run := .running, wait := none,
      env := { s.env with stBefore := s.st, stopCycleLeft := !s.stopReq } })

/-- R71, R190, R192: the machine never stops with a fault or a refusal; every step of every state answers a next. -/
def Obligations.StepAlwaysAnswersNext : Prop := ∀ s : State, ∃ t, step s = .next t

/-- The invariant holds at reset, and after every construction that is not refused (R60, R230). -/
def Obligations.ResetMeetsInvariant : Prop :=
  State.reset.Inv ∧ ∀ (c : RunConfig) (rom : List Byte) (s : State), construct c rom = .next s → s.Inv

/-- Every step keeps the invariant, whatever the schedule; its clauses on the stop allowance and the late tick speak
of the model's own fields (log 8, log 9). -/
def Obligations.StepKeepsInvariant : Prop := ∀ s t : State, s.Inv → step s = .next t → t.Inv

/-- R72, R73: read after write, the wrap law, and a write changes only the byte it names, in a memory of `n` bytes. -/
def Obligations.MemoryReadAfterWriteAndWrap : Prop :=
  ∀ (m : Memory) (n a b k : Nat) (v w : Byte),
    (m.write n a v).read n a = v ∧
    m.read n (a + n * k) = m.read n a ∧ m.write n (a + n * k) v = m.write n a v ∧
    (b % n ≠ a % n → (m.write n a v).read n b = m.read n b) ∧
    (m.write n a v).write n a w = m.write n a w

/-- The canonical form is the model's (log 10): every step keeps it, and canonical memories that read alike are equal.
-/
def Obligations.StepKeepsMemoryCanonical : Prop :=
  (∀ s t : State, s.cfg.legal = true → s.mem.wf s.cfg.memSize → step s = .next t → t.mem.wf t.cfg.memSize) ∧
  (∀ (n : Nat) (p q : Memory), p.wf n → q.wf n → (∀ a, p.read n a = q.read n a) → p = q)

/-- R57: the configuration is "not changed by any step". -/
def Obligations.StepKeepsConfiguration : Prop := ∀ s t : State, step s = .next t → t.cfg = s.cfg

/-- R241: the timers never rise except by FX15 and FX18, run by an instruction cycle, which write `V[X]`. -/
def Obligations.TimersRiseOnlyByWrites : Prop :=
  ∀ s t : State, step s = .next t →
    (t.dt.toNat ≤ s.dt.toNat ∨
      ∃ rest x, s.cycleNext rest ∧ decodeWord s.nextWord = .ldDtVx x ∧ t.dt = s.v[x]) ∧
    (t.st.toNat ≤ s.st.toNat ∨
      ∃ rest x, s.cycleNext rest ∧ decodeWord s.nextWord = .ldStVx x ∧ t.st = s.v[x])

/-- R194, R199: a step reports at most one event, after those before it, and only by running an instruction cycle: the
fetched word if it is unrecognized, with its address, or a halt on a fetched 0x0000, with its address. -/
def Obligations.StepReportsAtMostOneEvent : Prop :=
  ∀ s t : State, s.cfg.legal = true → step s = .next t →
    t.diag = s.diag ∨
    ∃ (rest : List Move) (a : Word), s.cycleNext rest ∧ a.toNat = s.pc.toNat % s.cfg.memSize ∧
      ((t.diag = s.diag ++ [.unrecognized s.nextWord a] ∧ decodeWord s.nextWord = .unrecognized s.nextWord) ∨
        (t.diag = s.diag ++ [.halt a] ∧ s.nextWord = 0 ∧ s.strikes + 1 = s.cfg.haltStrikes ∧ t.run = .halted))

/-- R54, R195: no step reads `diag` back: with other events before it a step does the same, and appends the same. -/
def Obligations.DiagnosticsAreOutputOnly : Prop :=
  ∀ (s t : State) (l : List DiagEvent), step s = .next t →
    step { s with diag := l ++ s.diag } = .next { t with diag := l ++ t.diag }

/-- R207, R215, R218, R237: `Halted` is terminal, and after it at most one late tick changes DT and ST, and nothing
else of the core changes; `lateTick` is the model's account of that one tick, which is used up or lapses and does not
come back (log 9). -/
def Obligations.HaltedIsTerminal : Prop :=
  ∀ s t : State, s.run = .halted → step s = .next t →
    t.run = .halted ∧ t.v = s.v ∧ t.i = s.i ∧ t.pc = s.pc ∧ t.stack = s.stack ∧ t.sp = s.sp ∧ t.mem = s.mem ∧
    t.fb = s.fb ∧ t.strikes = s.strikes ∧ t.wait = s.wait ∧ t.diag = s.diag ∧ t.draws = s.draws ∧
    ((t.dt = s.dt ∧ t.st = s.st ∧ (t.env.lateTick = true → s.env.lateTick = true)) ∨
      (s.env.lateTick = true ∧ t.env.lateTick = false ∧
        t.dt.toNat = s.dt.toNat - 1 ∧ t.st.toNat = s.st.toNat - 1))

/-- R207, R211: while `run` is `Idle` nothing of the core runs, whatever is scheduled; only `start()` and `stop()` end
it (R204). -/
def Obligations.IdleCoreRunsNothing : Prop :=
  ∀ s t : State, s.run = .idle → step s = .next t →
    t.v = s.v ∧ t.i = s.i ∧ t.pc = s.pc ∧ t.dt = s.dt ∧ t.st = s.st ∧ t.stack = s.stack ∧ t.sp = s.sp ∧
    t.mem = s.mem ∧ t.fb = s.fb ∧ t.strikes = s.strikes ∧ t.wait = s.wait ∧ t.diag = s.diag ∧ t.draws = s.draws ∧
    ((t.run = .idle ∧ t.stopReq = s.stopReq) ∨
      (∃ rest, s.env.schedule = .start :: rest ∧ t.run = .running ∧ t.stopReq = s.stopReq) ∨
      (∃ rest, s.env.schedule = .stop :: rest ∧ t.run = .halted ∧ t.stopReq = true))

/-- R181, R206, R211, R214: while an FX0A waits, no cycle, no tick and no stop is seen, so a pending stop stays pending
with its allowance whole; the one thing the core does is to end the wait when a key is down, with the lowest key down
in `V[x]`. That the wait holds cycles, ticks and the stop is D15, the spec's own decision, which adds that a claim
about a program should not read timers after a key wait. -/
def Obligations.KeyWaitHoldsTheCore : Prop :=
  ∀ (s t : State) (x : Reg), s.run = .running → s.wait = some x → step s = .next t →
    t.run = .running ∧ t.dt = s.dt ∧ t.st = s.st ∧ t.i = s.i ∧ t.pc = s.pc ∧ t.stack = s.stack ∧ t.sp = s.sp ∧
    t.mem = s.mem ∧ t.fb = s.fb ∧ t.strikes = s.strikes ∧ t.diag = s.diag ∧ t.draws = s.draws ∧
    (s.stopReq = true → t.stopReq = true) ∧
    t.env.stopCycleLeft = s.env.stopCycleLeft ∧ t.env.stopTickLeft = s.env.stopTickLeft ∧
    ((t.wait = some x ∧ t.v = s.v) ∨
      (∃ (k : Key) (b : Byte), s.keys[k] = true ∧ (∀ j : Key, j < k → s.keys[j] = false) ∧ b.toNat = k.val ∧
        t.wait = none ∧ t.v = s.v.set x b))

/-- R31, R175: keys change only by the input agent's `set` and `unset`, which mask the key to 4 bits; a scheduled move
is the model's account of the agent's call (log 6). -/
def Obligations.KeysChangeOnlyByInput : Prop :=
  (∀ (s : State) (k : Byte) (rest : List Move) (j : Key), j.val = k.toNat % 16 →
    (s.env.schedule = .keySet k :: rest →
      step s = .next { s with keys := s.keys.set j true, env := { s.env with schedule := rest } }) ∧
    (s.env.schedule = .keyUnset k :: rest →
      step s = .next { s with keys := s.keys.set j false, env := { s.env with schedule := rest } })) ∧
  (∀ s t : State, (∀ k rest, s.env.schedule ≠ .keySet k :: rest) → (∀ k rest, s.env.schedule ≠ .keyUnset k :: rest) →
    step s = .next t → t.keys = s.keys)

/-- R197: HALT_STRIKES consecutive 0x0000 words halt a running core after exactly that many cycles, changing no
register, no memory and no pixel, with PC after the last word and the halt reported at its address. The run is one of
the interleavings R208 allows, the one that schedules these cycles (log 6). -/
def Obligations.ConsecutiveZeroWordsHalt : Prop :=
  ∀ (s : State) (rest : List Move), s.cfg.legal = true → s.run = .running → s.wait = none → s.stopReq = false →
    s.env.schedule = List.replicate s.cfg.haltStrikes .instructionCycle ++ rest → s.strikes = 0 →
    (∀ k < 2 * s.cfg.haltStrikes, s.readByte (s.pc.toNat + k) = 0) →
    (∀ k < s.cfg.haltStrikes, ∃ u, Sys2Proof.core.run k s = .next u ∧ u.run = .running) ∧
    ∃ (t : State) (a : Word), Sys2Proof.core.run s.cfg.haltStrikes s = .next t ∧ t.run = .halted ∧
      t.strikes = s.cfg.haltStrikes ∧ t.pc.toNat = (s.pc.toNat + 2 * s.cfg.haltStrikes) % s.cfg.memSize ∧
      a.toNat = (s.pc.toNat + 2 * (s.cfg.haltStrikes - 1)) % s.cfg.memSize ∧ t.diag = s.diag ++ [.halt a] ∧
      t.v = s.v ∧ t.i = s.i ∧ t.dt = s.dt ∧ t.st = s.st ∧ t.mem = s.mem ∧ t.fb = s.fb ∧ t.stack = s.stack ∧
      t.sp = s.sp ∧ t.env.schedule = rest

/-- R212, R241, R210: fairness. Whatever the state and however many steps have passed, each of the core's four steps
comes up again as the next one; where it is a cycle or a tick, and the core runs with no key wait and no stop pending,
it is taken then. Those rules speak of cycles and ticks only: that KeyWaitEnd and StopSeen come round too is the model's,
read from R181 and R206 (log 15, DEDUCED). That a round of moves ends with each of the four in turn is the model's way
of saying all this (log 7, DESIGN CHOICE). -/
def Obligations.CoreStepsKeepComing : Prop :=
  ∀ (s : State) (m : Move) (steps : Nat), isCoreStep m = true →
    ∃ (n : Nat) (u : State) (rest : List Move), steps ≤ n ∧ Sys2Proof.core.run n s = .next u ∧
      u.env.schedule = m :: rest ∧
      (m = .instructionCycle ∨ m = .timerTick → u.run = .running → u.wait = none → u.stopReq = false →
        step u = m.effect (u.withSchedule rest))

/-- R206, R208: after a stop is requested at most one more cycle and one more tick run. A cycle that runs uses up the
cycle, a tick the tick; what is used up does not come back; with the cycle used up nothing but DT, ST and the run
state of the core changes, with the tick used up as well DT and ST do not either; and a stop that is seen halts the
core, allows the late tick, and changes nothing else of it. The allowance flags are the model's account of R206 (log
8); while a key wait holds they stay as they are, which KeyWaitHoldsTheCore states. -/
def Obligations.StopAllowsOneCycleOneTick : Prop :=
  ∀ s t : State, s.run = .running → s.wait = none → s.stopReq = true → step s = .next t →
    t.stopReq = true ∧
    (∀ rest, s.env.schedule = .instructionCycle :: rest → t.env.stopCycleLeft = false) ∧
    (∀ rest, s.env.schedule = .timerTick :: rest → t.env.stopTickLeft = false) ∧
    (s.env.stopCycleLeft = false →
      t.env.stopCycleLeft = false ∧ t.v = s.v ∧ t.i = s.i ∧ t.pc = s.pc ∧ t.stack = s.stack ∧ t.sp = s.sp ∧
      t.mem = s.mem ∧ t.fb = s.fb ∧ t.strikes = s.strikes ∧ t.diag = s.diag ∧ t.draws = s.draws ∧ t.wait = s.wait) ∧
    (s.env.stopTickLeft = false → t.env.stopTickLeft = false) ∧
    (s.env.stopCycleLeft = false → s.env.stopTickLeft = false → t.dt = s.dt ∧ t.st = s.st) ∧
    (∀ rest, s.env.schedule = .stopSeen :: rest →
      t = { s with run := .halted, env := { s.env with schedule := rest, stBefore := s.st, lateTick := true } })

/-- R206, R207, R208, R213, R214: an enabled tick lowers each nonzero timer by 1 and writes nothing else of the core.
It is enabled in a running core with no key wait, where a pending stop has its tick left, which it uses up, and once
in a halted core, as the late tick, which it uses up; else it is passed over (log 6, log 8, log 9). -/
def Obligations.TimerTickLowersTimers : Prop :=
  ∀ (s : State) (rest : List Move), s.env.schedule = .timerTick :: rest →
    (∃ d e : Byte, d.toNat = s.dt.toNat - 1 ∧ e.toNat = s.st.toNat - 1 ∧
      (s.run = .running → s.wait = none → s.stopReq = false →
        step s = .next { s with dt := d, st := e, env := { s.env with schedule := rest, stBefore := s.st } }) ∧
      (s.run = .running → s.wait = none → s.stopReq = true → s.env.stopTickLeft = true →
        step s = .next { s with dt := d, st := e, env := { s.env with
          schedule := rest, stBefore := s.st, stopTickLeft := false } }) ∧
      (s.run = .halted → s.env.lateTick = true →
        step s = .next { s with dt := d, st := e, env := { s.env with
          schedule := rest, stBefore := s.st, lateTick := false } })) ∧
    ((s.run = .running ∧ s.wait ≠ none) ∨ (s.run = .running ∧ s.stopReq = true ∧ s.env.stopTickLeft = false) ∨
        s.run = .idle ∨ (s.run = .halted ∧ s.env.lateTick = false) →
      step s = .next { s with env := { s.env with schedule := rest } })

/-- R181: a scheduled end of the wait fires when a key is down, with the lowest key down, and clears no key (log 6).
-/
def Obligations.KeyWaitEndStoresKey : Prop :=
  ∀ (s : State) (rest : List Move) (x : Reg) (k : Key),
    s.env.schedule = .keyWaitEnd :: rest → s.run = .running → s.wait = some x →
    s.keys[k] = true → (∀ j : Key, j < k → s.keys[j] = false) →
    ∃ b : Byte, b.toNat = k.val ∧
      step s = .next { s with v := s.v.set x b, wait := none, env := { s.env with schedule := rest, stBefore := s.st } }

/-- R204, R206: the run-state table, row by row: `start()` acts only from Idle, `stop()` ends an idle core and sets the
flag of a running one, and a stop that is seen halts and allows the late tick, unreported; a check of the stop flag
that meets no stop, or a key wait, is passed over (log 6, log 9, log 17). -/
def Obligations.RunStateTransitions : Prop :=
  ∀ (s : State) (rest : List Move),
    (s.env.schedule = .start :: rest →
      step s = .next { s with
        run := if s.run = .idle then .running else s.run, env := { s.env with schedule := rest } }) ∧
    (s.env.schedule = .stop :: rest →
      step s = .next { s with
        stopReq := true, run := if s.run = .idle then .halted else s.run, env := { s.env with schedule := rest } }) ∧
    (s.env.schedule = .stopSeen :: rest → s.run = .running → s.wait = none → s.stopReq = true →
      step s = .next { s with
        run := .halted, env := { s.env with schedule := rest, stBefore := s.st, lateTick := true } }) ∧
    (s.env.schedule = .stopSeen :: rest → s.run = .running → (s.wait ≠ none ∨ s.stopReq = false) →
      step s = .next { s with env := { s.env with schedule := rest } })

/-- R165, R222: a snapshot hands the renderer the frame of that moment; a sound poll answers `ST > 0` for the current
state or for the one before the most recent core step, since every core step that runs keeps the ST before it and no
other step does; neither changes anything else of the machine. The move says which answer the poll gives (log 11), and
what was handed out is kept in the model's own lists (log 12). -/
def Obligations.HostReadsSeeFrameAndSound : Prop :=
  (∀ (s : State) (rest : List Move),
    (s.env.schedule = .snapshot :: rest →
      step s = .next { s with env := { s.env with schedule := rest, snapshots := s.env.snapshots ++ [s.fb] } }) ∧
    (s.env.schedule = .soundPoll false :: rest →
      step s = .next { s with env := { s.env with
        schedule := rest, polls := s.env.polls ++ [decide (0 < s.st.toNat)] } }) ∧
    (s.env.schedule = .soundPoll true :: rest →
      step s = .next { s with env := { s.env with
        schedule := rest, polls := s.env.polls ++ [decide (0 < s.env.stBefore.toNat)] } })) ∧
  (∀ (s t : State) (m : Move) (rest : List Move), s.env.schedule = m :: rest → step s = .next t →
    t.env.stBefore = if isCoreStep m = true ∧ m.enabled s = true then s.st else s.env.stBefore) ∧
  (∀ s t : State, s.env.schedule = [] → step s = .next t → t.env.stBefore = s.env.stBefore)

/-- R88, R243: the bytes FX55 and FX33 store are the bytes the next fetches of their addresses read, high byte or low.
-/
def Obligations.FetchSeesStoredBytes : Prop :=
  (∀ (x r : Reg) (s t : State) (pc : Nat), s.cfg.legal = true → exec (.storeRegs x) s = .next t → r ≤ x →
    (pc % s.cfg.memSize = (s.i.toNat + r.val) % s.cfg.memSize → (t.fetchWord pc).toNat / 256 = (s.v[r]).toNat) ∧
    ((pc + 1) % s.cfg.memSize = (s.i.toNat + r.val) % s.cfg.memSize →
      (t.fetchWord pc).toNat % 256 = (s.v[r]).toNat)) ∧
  (∀ (x : Reg) (s t : State) (pc j d : Nat), s.cfg.legal = true → exec (.ldB x) s = .next t →
    [(s.v[x]).toNat / 100, (s.v[x]).toNat / 10 % 10, (s.v[x]).toNat % 10][j]? = some d →
    (pc % s.cfg.memSize = (s.i.toNat + j) % s.cfg.memSize → (t.fetchWord pc).toNat / 256 = d) ∧
    ((pc + 1) % s.cfg.memSize = (s.i.toNat + j) % s.cfg.memSize → (t.fetchWord pc).toNat % 256 = d))

/-- R45, R46, R49: up to STACK_DEPTH pops give back the latest pushes in reverse order, older ones being overwritten
silently, and SP moves by the difference. The stack's form is a clause of the invariant. -/
def Obligations.PopsReverseLatestPushes : Prop :=
  ∀ (s : State) (l : List Word) (n : Nat), s.stack.length = s.cfg.stackDepth → s.sp < s.cfg.stackDepth →
    n ≤ s.cfg.stackDepth → n ≤ l.length →
    (State.popAll n (s.pushAll l)).1 = l.reverse.take n ∧
    (State.popAll n (s.pushAll l)).2.sp = (s.sp + (l.length - n)) % s.cfg.stackDepth

/-! ### Construction and launch -/

/-- R60, R230, R232: what construction leaves, for every legal configuration and every ROM that fits; a stack slot no
push has written carries the model's mark (log 3, DESIGN CHOICE). -/
def Obligations.ConstructionLeavesResetState : Prop :=
  ∀ (c : RunConfig) (rom : List Byte), c.legal = true → rom.length ≤ c.memSize - c.progOrigin →
    ∃ s : State, construct c rom = .next s ∧
      (∀ r : Reg, s.v[r] = 0) ∧ s.i = 0 ∧ s.pc.toNat = c.progOrigin ∧ s.dt = 0 ∧ s.st = 0 ∧
      s.sp = c.stackDepth - 1 ∧ s.stack.length = c.stackDepth ∧ (∀ slot ∈ s.stack, slot = .unwritten) ∧
      s.fb.wf c ∧ (∀ x y, s.fb.pixel x y = false) ∧ (∀ k : Key, s.keys[k] = false) ∧
      s.run = .idle ∧ s.strikes = 0 ∧ s.wait = none ∧ s.stopReq = false ∧ s.diag = [] ∧ s.cfg = c ∧
      (∀ k, (h : k < rom.length) → s.readByte (c.progOrigin + k) = rom[k]) ∧
      (∀ (d : Fin 16) (r : Fin 5), ¬(c.progOrigin ≤ c.fontBase + 5 * d.val + r.val ∧
          c.fontBase + 5 * d.val + r.val < c.progOrigin + rom.length) →
        s.readByte (c.fontBase + 5 * d.val + r.val) = (c.font[d])[r]) ∧
      (∀ a < c.memSize, ¬(c.progOrigin ≤ a ∧ a < c.progOrigin + rom.length) →
        ¬(c.fontBase ≤ a ∧ a < c.fontBase + 80) → s.readByte a = 0)

/-- R10, R233, R234, R235: a configuration that is not legal is refused, as is a ROM that does not fit; a ROM that
cannot be read is fatal, and a launch that succeeds is the constructed state, running; the machine's reset state is a
construction with an empty ROM (log 13). Legal means the constraints of R10 and three of the model's own, which R10 does
not list: SCREEN_W, SCREEN_H and HALT_STRIKES are above 0 (log 1, DEDUCED). -/
def Obligations.LaunchStartsOrStops : Prop :=
  (∀ (c : RunConfig) (rom : List Byte), c.legal = false →
    construct c rom = .refused .illegalConfig ∧ launch c (some rom) = .refused .illegalConfig) ∧
  (∀ (c : RunConfig) (rom : List Byte), c.legal = true → c.memSize - c.progOrigin < rom.length →
    construct c rom = .refused .romTooLong ∧ launch c (some rom) = .refused .romTooLong) ∧
  (∀ c : RunConfig, launch c none = .fault .romUnreadable) ∧
  (∀ (c : RunConfig) (rom : List Byte) (s : State), construct c rom = .next s →
    launch c (some rom) = .next { s with run := .running }) ∧
  construct RunConfig.standard [] = .next State.reset
end

