-- ==== Sys2Proof/Laws/Decode.lean ====
section
/-! SUPPORT. The fields of a word the encoder builds (spec/30_encoding.md R92), one lemma per field and shape, and
the word put together again from its fields. -/
namespace Sys2Proof

section Fields
variable (o n : BitVec 4) (x y : Reg) (k : Byte) (a : Addr12)

@[simp] theorem Decode.op_xyn : Decode.op (Encode.xyn o x y n) = o := by
  ext i hi
  simp only [Decode.op, Encode.xyn, BitVec.getElem_extractLsb', BitVec.getLsbD_append]
  interval_cases i <;> rfl

@[simp] theorem Decode.x_xyn : Decode.x (Encode.xyn o x y n) = x := by
  suffices h : (Encode.xyn o x y n).extractLsb' 8 4 = BitVec.ofFin (w := 4) x from congrArg BitVec.toFin h
  ext i hi
  simp only [Encode.xyn, BitVec.getElem_extractLsb', BitVec.getLsbD_append]
  interval_cases i <;> rfl

@[simp] theorem Decode.y_xyn : Decode.y (Encode.xyn o x y n) = y := by
  suffices h : (Encode.xyn o x y n).extractLsb' 4 4 = BitVec.ofFin (w := 4) y from congrArg BitVec.toFin h
  ext i hi
  simp only [Encode.xyn, BitVec.getElem_extractLsb', BitVec.getLsbD_append]
  interval_cases i <;> rfl

@[simp] theorem Decode.n_xyn : Decode.n (Encode.xyn o x y n) = n := by
  ext i hi
  simp only [Decode.n, Encode.xyn, BitVec.getElem_extractLsb', BitVec.getLsbD_append]
  interval_cases i <;> rfl

@[simp] theorem Decode.op_xkk : Decode.op (Encode.xkk o x k) = o := by
  ext i hi
  simp only [Decode.op, Encode.xkk, BitVec.getElem_extractLsb', BitVec.getLsbD_append]
  interval_cases i <;> rfl

@[simp] theorem Decode.x_xkk : Decode.x (Encode.xkk o x k) = x := by
  suffices h : (Encode.xkk o x k).extractLsb' 8 4 = BitVec.ofFin (w := 4) x from congrArg BitVec.toFin h
  ext i hi
  simp only [Encode.xkk, BitVec.getElem_extractLsb', BitVec.getLsbD_append]
  interval_cases i <;> rfl

@[simp] theorem Decode.kk_xkk : Decode.kk (Encode.xkk o x k) = k := by
  ext i hi
  simp only [Decode.kk, Encode.xkk, BitVec.getElem_extractLsb', BitVec.getLsbD_append]
  interval_cases i <;> rfl

@[simp] theorem Decode.op_addr : Decode.op (Encode.addr o a) = o := by
  ext i hi
  simp only [Decode.op, Encode.addr, BitVec.getElem_extractLsb', BitVec.getLsbD_append]
  interval_cases i <;> rfl

@[simp] theorem Decode.nnn_addr : Decode.nnn (Encode.addr o a) = a := by
  ext i hi
  simp only [Decode.nnn, Encode.addr, BitVec.getElem_extractLsb', BitVec.getLsbD_append]
  interval_cases i <;> rfl

end Fields

section Words
variable (w : Word)

/-- Every word is its four digits. -/
theorem Encode.xyn_fields : Encode.xyn (Decode.op w) (Decode.x w) (Decode.y w) (Decode.n w) = w := by
  apply BitVec.eq_of_getLsbD_eq
  intro i hi
  simp only [Encode.xyn, Decode.op, Decode.x, Decode.y, Decode.n, BitVec.getLsbD_append, BitVec.ofFin_toFin,
    BitVec.getLsbD_extractLsb']
  interval_cases i <;> rfl

/-- Every word is its operation, its register digit and its bottom byte. -/
theorem Encode.xkk_fields : Encode.xkk (Decode.op w) (Decode.x w) (Decode.kk w) = w := by
  apply BitVec.eq_of_getLsbD_eq
  intro i hi
  simp only [Encode.xkk, Decode.op, Decode.x, Decode.kk, BitVec.getLsbD_append, BitVec.ofFin_toFin,
    BitVec.getLsbD_extractLsb']
  interval_cases i <;> rfl

/-- Every word is its operation and its bottom 12 bits. -/
theorem Encode.addr_fields : Encode.addr (Decode.op w) (Decode.nnn w) = w := by
  apply BitVec.eq_of_getLsbD_eq
  intro i hi
  simp only [Encode.addr, Decode.op, Decode.nnn, BitVec.getLsbD_append, BitVec.getLsbD_extractLsb']
  interval_cases i <;> rfl

end Words

/-! ### What the masks of R95 leave of a built word -/

section Masks
variable (o n : BitVec 4) (x y : Reg) (k : Byte) (a : Addr12)

/-- Mask 0xF000 keeps the top nibble. -/
theorem Encode.mask_addr : Encode.addr o a &&& 0xF000#16 = Encode.addr o 0 := by
  apply BitVec.eq_of_getLsbD_eq
  intro i hi
  simp only [Encode.addr, BitVec.getLsbD_and, BitVec.getLsbD_append]
  interval_cases i <;> simp

theorem Encode.mask_xkk : Encode.xkk o x k &&& 0xF000#16 = Encode.addr o 0 := by
  apply BitVec.eq_of_getLsbD_eq
  intro i hi
  simp only [Encode.xkk, Encode.addr, BitVec.getLsbD_and, BitVec.getLsbD_append]
  interval_cases i <;> simp

theorem Encode.mask_xyn : Encode.xyn o x y n &&& 0xF000#16 = Encode.addr o 0 := by
  apply BitVec.eq_of_getLsbD_eq
  intro i hi
  simp only [Encode.xyn, Encode.addr, BitVec.getLsbD_and, BitVec.getLsbD_append]
  interval_cases i <;> simp

/-- Mask 0xF0FF keeps the top nibble and the bottom byte. -/
theorem Encode.mask_byte : Encode.xkk o x k &&& 0xF0FF#16 = Encode.xkk o 0 k := by
  apply BitVec.eq_of_getLsbD_eq
  intro i hi
  simp only [Encode.xkk, BitVec.getLsbD_and, BitVec.getLsbD_append]
  interval_cases i <;> simp

/-- Mask 0xF00F keeps the top and the bottom nibble. -/
theorem Encode.mask_nibble : Encode.xyn o x y n &&& 0xF00F#16 = Encode.xyn o 0 0 n := by
  apply BitVec.eq_of_getLsbD_eq
  intro i hi
  simp only [Encode.xyn, BitVec.getLsbD_and, BitVec.getLsbD_append]
  interval_cases i <;> simp

end Masks

end Sys2Proof
end

