-- ==== Sys2Proof/Laws/Frame.lean ====
section
/-! SUPPORT. The laws of the framebuffer, read pixel by pixel, for a frame of `SCREEN_H` rows of `SCREEN_W` pixels (R55,
R160 to R164). -/
namespace Sys2Proof.Machine

/-! ### The form of a frame -/

theorem Frame.blank_wf (c : RunConfig) : (Frame.blank c).wf c :=
  ⟨List.length_replicate, fun _ h => by rw [List.eq_of_mem_replicate h, List.length_replicate]⟩

/-- A toggle keeps the form of the frame. -/
theorem Frame.toggle_wf {c : RunConfig} {f : Frame} (h : f.wf c) (x y : Nat) : (f.toggle x y).wf c := by
  refine ⟨by rw [Frame.toggle, List.length_modify]; exact h.1, fun row hr => ?_⟩
  obtain ⟨w, hw⟩ := List.mem_iff_getElem?.1 hr
  rw [Frame.toggle, List.getElem?_modify] at hw
  obtain ⟨old, ho, rfl⟩ := Option.map_eq_some_iff.1 hw
  have hl := h.2 old (List.mem_iff_getElem?.2 ⟨w, ho⟩)
  split
  · rw [List.length_modify]; exact hl
  · exact hl

theorem Draw.dot_wf {c : RunConfig} {d : Draw} (h : d.fb.wf c) (bit : Bool) (x y : Nat) : (d.dot c bit x y).fb.wf c := by
  unfold Draw.dot
  split
  · exact Frame.toggle_wf h x y
  · exact h

theorem Draw.row_wf {c : RunConfig} {d : Draw} (h : d.fb.wf c) (b : Byte) (x0 y : Nat) : (d.row c b x0 y).fb.wf c := by
  unfold Draw.row
  simp only [List.foldl_cons, List.foldl_nil]
  iterate 8 apply Draw.dot_wf
  exact h

theorem Draw.rows_wf {c : RunConfig} {d : Draw} (h : d.fb.wf c) (l : List Byte) (x0 y0 : Nat) :
    (Draw.rows c d l x0 y0).fb.wf c := by
  induction l generalizing d y0 with
  | nil => exact h
  | cons b rest ih => exact ih (Draw.row_wf h b x0 y0) (y0 + 1)

/-- A draw keeps the form of the frame. -/
theorem Frame.draw_wf {c : RunConfig} {f : Frame} (h : f.wf c) (l : List Byte) (xo yo : Byte) :
    (f.draw c l xo yo).fb.wf c := Draw.rows_wf (d := ⟨f, false, false⟩) h l _ _

/-! ### Pixels -/

/-- A pixel of a frame, where there is one. -/
theorem Frame.pixel_of_lt {c : RunConfig} {f : Frame} (h : f.wf c) {x y : Nat} (hx : x < c.screenW)
    (hy : y < c.screenH) :
    ∃ row b, f[y]? = some row ∧ row[x]? = some b ∧ f.pixel x y = b := by
  have hy' : y < f.length := h.1 ▸ hy
  have hx' : x < (f[y]).length := (h.2 f[y] (List.getElem_mem hy')) ▸ hx
  exact ⟨f[y], f[y][x], List.getElem?_eq_getElem hy', List.getElem?_eq_getElem hx', by
    simp [Frame.pixel, hy', hx']⟩

theorem Frame.pixel_off_screen {c : RunConfig} {f : Frame} (hf : f.wf c) {x y : Nat}
    (h : ¬(x < c.screenW ∧ y < c.screenH)) : f.pixel x y = false := by
  unfold Frame.pixel
  cases hr : f[y]? with
  | none => rfl
  | some row =>
    have hy : y < c.screenH := hf.1 ▸ (List.getElem?_eq_some_iff.1 hr).1
    have hl := hf.2 row (List.mem_iff_getElem?.2 ⟨y, hr⟩)
    have hx : row[x]? = none := List.getElem?_eq_none (by omega)
    simp [hx]

/-- Two frames of one screen with the same pixels are the same frame. -/
theorem Frame.ext_pixel {c : RunConfig} {f g : Frame} (hf : f.wf c) (hg : g.wf c)
    (h : ∀ x y, x < c.screenW → y < c.screenH → f.pixel x y = g.pixel x y) : f = g := by
  apply List.ext_getElem (by rw [hf.1, hg.1])
  intro y h1 h2
  have l1 := hf.2 _ (List.getElem_mem h1)
  have l2 := hg.2 _ (List.getElem_mem h2)
  apply List.ext_getElem (by rw [l1, l2])
  intro x h3 h4
  have := h x y (l1 ▸ h3) (hf.1 ▸ h1)
  simpa [Frame.pixel, h1, h2, h3, h4] using this

@[simp] theorem Frame.pixel_blank (c : RunConfig) (x y : Nat) : (Frame.blank c).pixel x y = false := by
  unfold Frame.pixel Frame.blank
  by_cases hy : y < c.screenH
  · by_cases hx : x < c.screenW <;> simp [hy, hx]
  · simp [hy]

/-- A toggle flips the one pixel it names, if that is on the screen. -/
theorem Frame.pixel_toggle {c : RunConfig} {f : Frame} (hf : f.wf c) (x y u w : Nat) :
    (f.toggle x y).pixel u w =
      if u = x ∧ w = y ∧ x < c.screenW ∧ y < c.screenH then !f.pixel u w else f.pixel u w := by
  by_cases hs : u < c.screenW ∧ w < c.screenH
  · obtain ⟨row, b, h1, h2, h3⟩ := Frame.pixel_of_lt hf hs.1 hs.2
    rw [h3]
    unfold Frame.pixel Frame.toggle
    rw [List.getElem?_modify, h1]
    by_cases hw : y = w
    · subst hw
      by_cases hu : x = u
      · subst hu
        simp [hs, h2]
      · simp [h2, hu, Ne.symm hu]
    · simp [h2, hw, Ne.symm hw]
  · rw [Frame.pixel_off_screen (Frame.toggle_wf hf x y) hs, Frame.pixel_off_screen hf hs, if_neg]
    rintro ⟨rfl, rfl, h⟩
    exact hs h

/-- One bit of a sprite XORs itself onto its own pixel, if that is on the screen. -/
theorem Draw.pixel_dot {c : RunConfig} {d : Draw} (hd : d.fb.wf c) (bit : Bool) (x y u w : Nat) :
    (d.dot c bit x y).fb.pixel u w =
      (d.fb.pixel u w ^^ (decide (u = x ∧ w = y ∧ u < c.screenW ∧ w < c.screenH) && bit)) := by
  unfold Draw.dot
  by_cases h : bit = true ∧ x < c.screenW ∧ y < c.screenH
  · rw [if_pos h]
    dsimp only
    rw [Frame.pixel_toggle hd]
    by_cases he : u = x ∧ w = y
    · obtain ⟨rfl, rfl⟩ := he
      simp [h]
    · rw [if_neg (fun hc => he ⟨hc.1, hc.2.1⟩), decide_eq_false (fun hc => he ⟨hc.1, hc.2.1⟩)]
      simp
  · rw [if_neg h]
    by_cases hb : bit = true
    · rw [decide_eq_false]
      · simp
      · rintro ⟨rfl, rfl, hu⟩
        exact h ⟨hb, hu⟩
    · simp [Bool.eq_false_iff.2 hb]

/-- The bit of a sprite row that falls on column `u`, the row starting at column `x0`. -/
def rowBit (b : Byte) (x0 u : Nat) : Bool := decide (x0 ≤ u ∧ u < x0 + 8) && spriteBit b (u - x0)

/-- A row of a sprite XORs each of its bits onto its own pixel; bits past the right edge are clipped (R162). -/
theorem Draw.pixel_row {c : RunConfig} {d : Draw} (hd : d.fb.wf c) (b : Byte) (x0 y u w : Nat) :
    (d.row c b x0 y).fb.pixel u w =
      (d.fb.pixel u w ^^ (decide (w = y ∧ u < c.screenW ∧ w < c.screenH) && rowBit b x0 u)) := by
  unfold Draw.row
  simp (disch := repeat first | exact hd | apply Draw.dot_wf) only [List.foldl_cons, List.foldl_nil, Draw.pixel_dot]
  by_cases hw : w = y ∧ u < c.screenW ∧ w < c.screenH
  · obtain ⟨rfl, hu, hy⟩ := hw
    by_cases hr : x0 ≤ u ∧ u < x0 + 8
    · obtain ⟨k, rfl⟩ := Nat.exists_eq_add_of_le hr.1
      have hk : k < 8 := by omega
      interval_cases k <;> simp [rowBit, hu, hy]
    · have : ∀ k < 8, ¬ u = x0 + k := by omega
      simp [rowBit, hr, this]
      have h0 : ¬ u = x0 := by simpa using this 0 (by omega)
      simp [h0]
  · simp [hw]

/-- The bit a sprite puts on the pixel `(u, w)`, its top left corner at `(x0, y0)`. -/
def rowsBit : List Byte → Nat → Nat → Nat → Nat → Bool
  | [], _, _, _, _ => false
  | b :: rest, x0, y0, u, w => (decide (w = y0) && rowBit b x0 u) || rowsBit rest x0 (y0 + 1) u w

theorem rowsBit_above {l : List Byte} {x0 y0 u w : Nat} (h : w < y0) : rowsBit l x0 y0 u w = false := by
  induction l generalizing y0 with
  | nil => rfl
  | cons b rest ih => simp [rowsBit, ih (Nat.lt_succ_of_lt h), Nat.ne_of_lt h]

/-- The sprite bit of row `w - y0`, or none outside the sprite's rows. -/
theorem rowsBit_eq (l : List Byte) (x0 y0 u w : Nat) :
    rowsBit l x0 y0 u w =
      (decide (y0 ≤ w) && ((l[w - y0]?).elim false (fun b => rowBit b x0 u))) := by
  induction l generalizing y0 with
  | nil => simp [rowsBit]
  | cons b rest ih =>
    rcases Nat.lt_trichotomy w y0 with h | rfl | h
    · rw [rowsBit_above h, decide_eq_false (by omega)]
      simp
    · simp [rowsBit, rowsBit_above (Nat.lt_succ_self w)]
    · rw [rowsBit, ih, decide_eq_false (Nat.ne_of_gt h), decide_eq_true (Nat.le_of_lt h),
        decide_eq_true (Nat.succ_le_of_lt h)]
      obtain ⟨k, rfl⟩ := Nat.exists_eq_add_of_lt h
      rw [show y0 + k + 1 - y0 = k + 1 by omega, show y0 + k + 1 - (y0 + 1) = k by omega]
      simp

/-- A whole draw XORs every sprite bit onto its own pixel, clipped at the right and bottom edges. -/
theorem Draw.pixel_rows {c : RunConfig} {d : Draw} (hd : d.fb.wf c) (l : List Byte) (x0 y0 u w : Nat) :
    (d.rows c l x0 y0).fb.pixel u w =
      (d.fb.pixel u w ^^ (decide (u < c.screenW ∧ w < c.screenH) && rowsBit l x0 y0 u w)) := by
  induction l generalizing d y0 with
  | nil => simp [Draw.rows, rowsBit]
  | cons b rest ih =>
    rw [Draw.rows, ih (Draw.row_wf hd b x0 y0), Draw.pixel_row hd, rowsBit]
    by_cases hs : u < c.screenW ∧ w < c.screenH
    · by_cases hy : w = y0
      · subst hy
        simp [hs, rowsBit_above (Nat.lt_succ_self w)]
      · simp [hs, hy]
    · simp [hs]

/-- What `FbDraw` leaves in each pixel (R161, R162). -/
theorem Frame.pixel_draw {c : RunConfig} {f : Frame} (hf : f.wf c) (l : List Byte) (xo yo : Byte) (u w : Nat) :
    (f.draw c l xo yo).fb.pixel u w =
      (f.pixel u w ^^ (decide (u < c.screenW ∧ w < c.screenH) &&
        rowsBit l (xo.toNat % c.screenW) (yo.toNat % c.screenH) u w)) :=
  Draw.pixel_rows (d := ⟨f, false, false⟩) hf l _ _ u w

end Sys2Proof.Machine
end

