-- ==== Sys2Proof/Laws/Memory.lean ====
section
/-! SUPPORT. The laws of memory: read after write, wrap (R72), the canonical form, and what a run of byte writes does. -/
namespace Sys2Proof.Machine

/-! ### One address -/

theorem Memory.lookup_erase_of_ne (m : Memory) {a k : Nat} (h : k ≠ a) :
    (Memory.erase m a).lookup k = m.lookup k := by
  induction m with
  | nil => rfl
  | cons c rest ih =>
    obtain ⟨j, b⟩ := c
    by_cases hj : j = a
    · subst hj
      simpa [Memory.erase, Memory.lookup, Ne.symm h] using ih
    · by_cases hk : j = k
      · subst hk
        simp [Memory.erase, Memory.lookup, h]
      · simpa [Memory.erase, Memory.lookup, hj, hk] using ih

theorem Memory.lookup_erase_self (m : Memory) (a : Nat) :
    (Memory.erase m a).lookup a = Memory.initial a := by
  induction m with
  | nil => rfl
  | cons c rest ih =>
    obtain ⟨j, b⟩ := c
    by_cases hj : j = a
    · simpa [Memory.erase, hj] using ih
    · simpa [Memory.erase, Memory.lookup, hj] using ih

theorem Memory.lookup_insert_of_ne (m : Memory) {a k : Nat} (b : Byte) (h : k ≠ a) :
    (Memory.insert m a b).lookup k = m.lookup k := by
  induction m with
  | nil => simp [Memory.insert, Memory.lookup, Ne.symm h]
  | cons c rest ih =>
    obtain ⟨j, d⟩ := c
    by_cases hlt : a < j <;> simp [Memory.insert, Memory.lookup, hlt, Ne.symm h, ih]

theorem Memory.lookup_insert_self (m : Memory) (a : Nat) (b : Byte) (h : ∀ c ∈ m, c.1 ≠ a) :
    (Memory.insert m a b).lookup a = b := by
  induction m with
  | nil => simp [Memory.insert, Memory.lookup]
  | cons c rest ih =>
    obtain ⟨j, d⟩ := c
    have hj : j ≠ a := h (j, d) (by simp)
    by_cases hlt : a < j
    · simp [Memory.insert, Memory.lookup, hlt]
    · simpa [Memory.insert, Memory.lookup, hlt, hj] using ih (fun c hc => h c (by simp [hc]))

theorem Memory.erase_keys_ne (m : Memory) (a : Nat) : ∀ c ∈ Memory.erase m a, c.1 ≠ a := by
  intro c hc
  simpa [Memory.erase] using (List.mem_filter.1 hc).2

/-- R72: "after `MemWrite(a, 1, v)`, `MemRead(a, 1) = v`", at any alias of the address. -/
theorem Memory.read_write_alias (m : Memory) {n a k : Nat} (b : Byte) (h : k % n = a % n) :
    (m.write n a b).read n k = b := by
  unfold Memory.read Memory.write
  rw [h]
  by_cases hb : b = Memory.initial (a % n)
  · simp [← hb, Memory.lookup_erase_self]
  · simp [hb, Memory.lookup_insert_self _ _ _ (Memory.erase_keys_ne m _)]

@[simp] theorem Memory.read_write_self (m : Memory) (n a : Nat) (b : Byte) : (m.write n a b).read n a = b :=
  Memory.read_write_alias m b rfl

/-- R73: a write changes only the byte it names. -/
theorem Memory.read_write_of_ne (m : Memory) {n a k : Nat} (b : Byte) (h : k % n ≠ a % n) :
    (m.write n a b).read n k = m.read n k := by
  simp only [Memory.read, Memory.write]
  split
  · exact Memory.lookup_erase_of_ne m h
  · rw [Memory.lookup_insert_of_ne _ _ h, Memory.lookup_erase_of_ne m h]

/-- What one write does to every read. -/
theorem Memory.read_write (m : Memory) (n a k : Nat) (b : Byte) :
    (m.write n a b).read n k = if k % n = a % n then b else m.read n k := by
  split
  · exact Memory.read_write_alias m b ‹_›
  · exact Memory.read_write_of_ne m b ‹_›

@[simp] theorem Memory.read_mod (m : Memory) (n a : Nat) : m.read n (a % n) = m.read n a := by
  simp [Memory.read]

/-- R72: an access at `a + MEM_SIZE*k` is the same access as one at `a`. -/
theorem Memory.read_wrap (m : Memory) (n a k : Nat) : m.read n (a + n * k) = m.read n a := by
  simp [Memory.read]

theorem Memory.write_wrap (m : Memory) (n a k : Nat) (b : Byte) : m.write n (a + n * k) b = m.write n a b := by
  simp [Memory.write]

/-! ### The canonical form -/

theorem Memory.mem_insert {m : Memory} {a : Nat} {b : Byte} {c : Host.Cell} :
    c ∈ Memory.insert m a b ↔ c = (a, b) ∨ c ∈ m := by
  induction m with
  | nil => simp [Memory.insert]
  | cons d rest ih =>
    obtain ⟨j, e⟩ := d
    by_cases hlt : a < j
    · simp [Memory.insert, hlt]
    · simp only [Memory.insert, hlt, if_false, List.mem_cons, ih]
      tauto

theorem Memory.insert_rising {m : Memory} {a : Nat} (b : Byte)
    (hm : m.Pairwise (fun c d => c.1 < d.1)) (ha : ∀ c ∈ m, c.1 ≠ a) :
    (Memory.insert m a b).Pairwise (fun c d => c.1 < d.1) := by
  induction m with
  | nil => simp [Memory.insert]
  | cons c rest ih =>
    obtain ⟨j, d⟩ := c
    have hj : j ≠ a := ha (j, d) (by simp)
    obtain ⟨hhead, htail⟩ := List.pairwise_cons.1 hm
    by_cases hlt : a < j
    · simp only [Memory.insert, hlt, if_true]
      refine List.pairwise_cons.2 ⟨fun e he => ?_, hm⟩
      rcases List.mem_cons.1 he with rfl | he
      · exact hlt
      · exact Nat.lt_trans hlt (hhead e he)
    · simp only [Memory.insert, hlt, if_false]
      refine List.pairwise_cons.2 ⟨fun e he => ?_, ih htail (fun c hc => ha c (by simp [hc]))⟩
      rcases Memory.mem_insert.1 he with rfl | he
      · exact Nat.lt_of_le_of_ne (Nat.le_of_not_lt hlt) hj
      · exact hhead e he

/-- Every write keeps the canonical form. -/
theorem Memory.write_wf {n : Nat} {m : Memory} (hn : 0 < n) (h : m.wf n) (a : Nat) (b : Byte) :
    (m.write n a b).wf n := by
  have he : (Memory.erase m (a % n)).wf n := ⟨h.1.filter _, fun c hc => h.2 c (List.mem_filter.1 hc).1⟩
  unfold Memory.write
  dsimp only
  split
  · exact he
  · refine ⟨Memory.insert_rising b he.1 (Memory.erase_keys_ne m _), fun c hc => ?_⟩
    rcases Memory.mem_insert.1 hc with rfl | hc
    · exact ⟨Nat.mod_lt _ hn, ‹_›⟩
    · exact he.2 c hc

theorem Memory.writeBytes_wf {n : Nat} {m : Memory} (hn : 0 < n) (h : m.wf n) (a : Nat) (l : List Byte) :
    (m.writeBytes n a l).wf n := by
  induction l generalizing m a with
  | nil => exact h
  | cons b rest ih => exact ih (Memory.write_wf hn h a b) (a + 1)

theorem Memory.nil_wf (n : Nat) : Memory.wf n [] := ⟨List.Pairwise.nil, by simp⟩

theorem Memory.reset_wf (c : RunConfig) (hn : 0 < c.memSize) : (Memory.reset c).wf c.memSize :=
  Memory.writeBytes_wf hn (Memory.writeBytes_wf hn (Memory.nil_wf _) _ _) _ _

theorem Memory.lookup_of_mem {m : Memory} (h : m.Pairwise (fun c d => c.1 < d.1)) {c : Host.Cell}
    (hc : c ∈ m) : m.lookup c.1 = c.2 := by
  induction m with
  | nil => simp at hc
  | cons d rest ih =>
    obtain ⟨hhead, htail⟩ := List.pairwise_cons.1 h
    rcases List.mem_cons.1 hc with rfl | hc
    · simp [Memory.lookup]
    · simpa [Memory.lookup, Nat.ne_of_lt (hhead c hc)] using ih htail hc

theorem Memory.lookup_eq_initial {m : Memory} {a : Nat} (h : ∀ c ∈ m, c.1 ≠ a) :
    m.lookup a = Memory.initial a := by
  induction m with
  | nil => rfl
  | cons d rest ih =>
    simpa [Memory.lookup, h d (by simp)] using ih (fun c hc => h c (by simp [hc]))

theorem Memory.mem_of_lookup {m : Memory} {a : Nat} (h : m.lookup a ≠ Memory.initial a) :
    (a, m.lookup a) ∈ m := by
  induction m with
  | nil => exact absurd rfl h
  | cons d rest ih =>
    obtain ⟨j, e⟩ := d
    by_cases hj : j = a
    · subst hj; simp [Memory.lookup]
    · simp only [Memory.lookup, hj, if_false] at h ⊢
      exact List.mem_cons_of_mem _ (ih h)

/-- Equal memories are equal data: in canonical form, memories that read alike everywhere are the same list. -/
theorem Memory.ext_of_read {n : Nat} {p q : Memory} (hp : p.wf n) (hq : q.wf n)
    (h : ∀ a, p.read n a = q.read n a) : p = q := by
  have key : ∀ {p q : Memory}, p.wf n → q.wf n → (∀ a, p.read n a = q.read n a) → ∀ c ∈ p, c ∈ q := by
    intro p q hp _ hpq c hc
    have hlt := (hp.2 c hc).1
    have hl := Memory.lookup_of_mem hp.1 hc
    have hq : q.lookup c.1 = c.2 := by
      have := hpq c.1
      simp only [Memory.read, Nat.mod_eq_of_lt hlt] at this
      rw [← this, hl]
    have := Memory.mem_of_lookup (m := q) (a := c.1) (by rw [hq]; exact (hp.2 c hc).2)
    rwa [hq] at this
  have hnodup : ∀ {p : Memory}, p.wf n → p.Nodup := fun hp =>
    hp.1.imp (fun hlt heq => absurd (heq ▸ hlt) (Nat.lt_irrefl _))
  have hperm : p.Perm q := (List.perm_ext_iff_of_nodup (hnodup hp) (hnodup hq)).2 fun c =>
    ⟨key hp hq h c, key hq hp (fun a => (h a).symm) c⟩
  exact hperm.eq_of_pairwise (fun c d _ _ h1 h2 => absurd h1 (Nat.lt_asymm h2)) hp.1 hq.1

/-! ### A run of byte writes (R83, R156) -/

/-- An address no byte of the run aliases reads as before. -/
theorem Memory.read_writeBytes_of_ne (m : Memory) (n a : Nat) (l : List Byte) {k : Nat}
    (h : ∀ j < l.length, k % n ≠ (a + j) % n) : (m.writeBytes n a l).read n k = m.read n k := by
  induction l generalizing m a with
  | nil => rfl
  | cons b rest ih =>
    rw [Memory.writeBytes, ih, Memory.read_write_of_ne]
    · simpa using h 0 (by simp)
    · intro j hj
      have := h (j + 1) (by simpa using hj)
      rwa [show a + 1 + j = a + (j + 1) by omega]

/-- Two addresses less than a memory apart are different bytes. -/
theorem add_mod_ne {n a d : Nat} (h0 : 0 < d) (hd : d < n) : a % n ≠ (a + d) % n := by
  intro h
  have : (a + d) ≡ a + 0 [MOD n] := h.symm
  have hm := Nat.ModEq.add_left_cancel' a this
  rw [Nat.ModEq, Nat.mod_eq_of_lt hd, Nat.zero_mod] at hm
  omega

/-- A run no longer than memory puts each byte at its own address. -/
theorem Memory.read_writeBytes (m : Memory) (n a : Nat) (l : List Byte) (hl : l.length ≤ n)
    {j : Nat} (hj : j < l.length) : (m.writeBytes n a l).read n (a + j) = l[j] := by
  induction l generalizing m a j with
  | nil => simp at hj
  | cons b rest ih =>
    rw [Memory.writeBytes]
    cases j with
    | zero =>
      rw [Memory.read_writeBytes_of_ne]
      · simp
      · intro i hi
        simp only [List.length_cons] at hl
        rw [show a + 1 + i = a + (i + 1) by omega]
        exact add_mod_ne (by omega) (by omega)
    | succ j =>
      rw [show a + (j + 1) = a + 1 + j by omega]
      simp only [List.length_cons] at hl hj
      simpa using ih (m.write n a b) (a + 1) (by omega) (by omega)

end Sys2Proof.Machine
end

