-- ==== Sys2Proof/Laws/State.lean ====
section
/-! SUPPORT. What each shared update leaves in each field of State: one lemma per field per update, so that no later
proof unfolds a record update. -/
namespace Sys2Proof.Machine

variable (s : State)

/-! ### setReg -/

@[simp] theorem State.setReg_v (r : Reg) (b : Byte) : (s.setReg r b).v = s.v.set r b := rfl
@[simp] theorem State.setReg_i (r : Reg) (b : Byte) : (s.setReg r b).i = s.i := rfl
@[simp] theorem State.setReg_pc (r : Reg) (b : Byte) : (s.setReg r b).pc = s.pc := rfl
@[simp] theorem State.setReg_dt (r : Reg) (b : Byte) : (s.setReg r b).dt = s.dt := rfl
@[simp] theorem State.setReg_st (r : Reg) (b : Byte) : (s.setReg r b).st = s.st := rfl
@[simp] theorem State.setReg_stack (r : Reg) (b : Byte) : (s.setReg r b).stack = s.stack := rfl
@[simp] theorem State.setReg_sp (r : Reg) (b : Byte) : (s.setReg r b).sp = s.sp := rfl
@[simp] theorem State.setReg_mem (r : Reg) (b : Byte) : (s.setReg r b).mem = s.mem := rfl
@[simp] theorem State.setReg_fb (r : Reg) (b : Byte) : (s.setReg r b).fb = s.fb := rfl
@[simp] theorem State.setReg_keys (r : Reg) (b : Byte) : (s.setReg r b).keys = s.keys := rfl
@[simp] theorem State.setReg_run (r : Reg) (b : Byte) : (s.setReg r b).run = s.run := rfl
@[simp] theorem State.setReg_strikes (r : Reg) (b : Byte) : (s.setReg r b).strikes = s.strikes := rfl
@[simp] theorem State.setReg_wait (r : Reg) (b : Byte) : (s.setReg r b).wait = s.wait := rfl
@[simp] theorem State.setReg_stopReq (r : Reg) (b : Byte) : (s.setReg r b).stopReq = s.stopReq := rfl
@[simp] theorem State.setReg_diag (r : Reg) (b : Byte) : (s.setReg r b).diag = s.diag := rfl
@[simp] theorem State.setReg_cfg (r : Reg) (b : Byte) : (s.setReg r b).cfg = s.cfg := rfl
@[simp] theorem State.setReg_draws (r : Reg) (b : Byte) : (s.setReg r b).draws = s.draws := rfl
@[simp] theorem State.setReg_env (r : Reg) (b : Byte) : (s.setReg r b).env = s.env := rfl

/-! ### jump -/

@[simp] theorem State.jump_v (a : Word) : (s.jump a).v = s.v := rfl
@[simp] theorem State.jump_i (a : Word) : (s.jump a).i = s.i := rfl
@[simp] theorem State.jump_pc (a : Word) : (s.jump a).pc = a := rfl
@[simp] theorem State.jump_dt (a : Word) : (s.jump a).dt = s.dt := rfl
@[simp] theorem State.jump_st (a : Word) : (s.jump a).st = s.st := rfl
@[simp] theorem State.jump_stack (a : Word) : (s.jump a).stack = s.stack := rfl
@[simp] theorem State.jump_sp (a : Word) : (s.jump a).sp = s.sp := rfl
@[simp] theorem State.jump_mem (a : Word) : (s.jump a).mem = s.mem := rfl
@[simp] theorem State.jump_fb (a : Word) : (s.jump a).fb = s.fb := rfl
@[simp] theorem State.jump_keys (a : Word) : (s.jump a).keys = s.keys := rfl
@[simp] theorem State.jump_run (a : Word) : (s.jump a).run = s.run := rfl
@[simp] theorem State.jump_strikes (a : Word) : (s.jump a).strikes = s.strikes := rfl
@[simp] theorem State.jump_wait (a : Word) : (s.jump a).wait = s.wait := rfl
@[simp] theorem State.jump_stopReq (a : Word) : (s.jump a).stopReq = s.stopReq := rfl
@[simp] theorem State.jump_diag (a : Word) : (s.jump a).diag = s.diag := rfl
@[simp] theorem State.jump_cfg (a : Word) : (s.jump a).cfg = s.cfg := rfl
@[simp] theorem State.jump_draws (a : Word) : (s.jump a).draws = s.draws := rfl
@[simp] theorem State.jump_env (a : Word) : (s.jump a).env = s.env := rfl

/-! ### skip -/

@[simp] theorem State.skip_v : (s.skip).v = s.v := rfl
@[simp] theorem State.skip_i : (s.skip).i = s.i := rfl
@[simp] theorem State.skip_pc : (s.skip).pc = nextPc s.cfg s.pc := rfl
@[simp] theorem State.skip_dt : (s.skip).dt = s.dt := rfl
@[simp] theorem State.skip_st : (s.skip).st = s.st := rfl
@[simp] theorem State.skip_stack : (s.skip).stack = s.stack := rfl
@[simp] theorem State.skip_sp : (s.skip).sp = s.sp := rfl
@[simp] theorem State.skip_mem : (s.skip).mem = s.mem := rfl
@[simp] theorem State.skip_fb : (s.skip).fb = s.fb := rfl
@[simp] theorem State.skip_keys : (s.skip).keys = s.keys := rfl
@[simp] theorem State.skip_run : (s.skip).run = s.run := rfl
@[simp] theorem State.skip_strikes : (s.skip).strikes = s.strikes := rfl
@[simp] theorem State.skip_wait : (s.skip).wait = s.wait := rfl
@[simp] theorem State.skip_stopReq : (s.skip).stopReq = s.stopReq := rfl
@[simp] theorem State.skip_diag : (s.skip).diag = s.diag := rfl
@[simp] theorem State.skip_cfg : (s.skip).cfg = s.cfg := rfl
@[simp] theorem State.skip_draws : (s.skip).draws = s.draws := rfl
@[simp] theorem State.skip_env : (s.skip).env = s.env := rfl

/-! ### skipIf -/

@[simp] theorem State.skipIf_v (c : Bool) : (s.skipIf c).v = s.v := by cases c <;> rfl
@[simp] theorem State.skipIf_i (c : Bool) : (s.skipIf c).i = s.i := by cases c <;> rfl
@[simp] theorem State.skipIf_pc (c : Bool) : (s.skipIf c).pc = if c then nextPc s.cfg s.pc else s.pc :=
  by cases c <;> rfl
@[simp] theorem State.skipIf_dt (c : Bool) : (s.skipIf c).dt = s.dt := by cases c <;> rfl
@[simp] theorem State.skipIf_st (c : Bool) : (s.skipIf c).st = s.st := by cases c <;> rfl
@[simp] theorem State.skipIf_stack (c : Bool) : (s.skipIf c).stack = s.stack := by cases c <;> rfl
@[simp] theorem State.skipIf_sp (c : Bool) : (s.skipIf c).sp = s.sp := by cases c <;> rfl
@[simp] theorem State.skipIf_mem (c : Bool) : (s.skipIf c).mem = s.mem := by cases c <;> rfl
@[simp] theorem State.skipIf_fb (c : Bool) : (s.skipIf c).fb = s.fb := by cases c <;> rfl
@[simp] theorem State.skipIf_keys (c : Bool) : (s.skipIf c).keys = s.keys := by cases c <;> rfl
@[simp] theorem State.skipIf_run (c : Bool) : (s.skipIf c).run = s.run := by cases c <;> rfl
@[simp] theorem State.skipIf_strikes (c : Bool) : (s.skipIf c).strikes = s.strikes := by cases c <;> rfl
@[simp] theorem State.skipIf_wait (c : Bool) : (s.skipIf c).wait = s.wait := by cases c <;> rfl
@[simp] theorem State.skipIf_stopReq (c : Bool) : (s.skipIf c).stopReq = s.stopReq := by cases c <;> rfl
@[simp] theorem State.skipIf_diag (c : Bool) : (s.skipIf c).diag = s.diag := by cases c <;> rfl
@[simp] theorem State.skipIf_cfg (c : Bool) : (s.skipIf c).cfg = s.cfg := by cases c <;> rfl
@[simp] theorem State.skipIf_draws (c : Bool) : (s.skipIf c).draws = s.draws := by cases c <;> rfl
@[simp] theorem State.skipIf_env (c : Bool) : (s.skipIf c).env = s.env := by cases c <;> rfl

/-! ### randomByte -/

@[simp] theorem State.randomByte_v : (s.randomByte.2).v = s.v := rfl
@[simp] theorem State.randomByte_i : (s.randomByte.2).i = s.i := rfl
@[simp] theorem State.randomByte_pc : (s.randomByte.2).pc = s.pc := rfl
@[simp] theorem State.randomByte_dt : (s.randomByte.2).dt = s.dt := rfl
@[simp] theorem State.randomByte_st : (s.randomByte.2).st = s.st := rfl
@[simp] theorem State.randomByte_stack : (s.randomByte.2).stack = s.stack := rfl
@[simp] theorem State.randomByte_sp : (s.randomByte.2).sp = s.sp := rfl
@[simp] theorem State.randomByte_mem : (s.randomByte.2).mem = s.mem := rfl
@[simp] theorem State.randomByte_fb : (s.randomByte.2).fb = s.fb := rfl
@[simp] theorem State.randomByte_keys : (s.randomByte.2).keys = s.keys := rfl
@[simp] theorem State.randomByte_run : (s.randomByte.2).run = s.run := rfl
@[simp] theorem State.randomByte_strikes : (s.randomByte.2).strikes = s.strikes := rfl
@[simp] theorem State.randomByte_wait : (s.randomByte.2).wait = s.wait := rfl
@[simp] theorem State.randomByte_stopReq : (s.randomByte.2).stopReq = s.stopReq := rfl
@[simp] theorem State.randomByte_diag : (s.randomByte.2).diag = s.diag := rfl
@[simp] theorem State.randomByte_cfg : (s.randomByte.2).cfg = s.cfg := rfl
@[simp] theorem State.randomByte_draws : (s.randomByte.2).draws = s.draws + 1 := rfl
@[simp] theorem State.randomByte_env : (s.randomByte.2).env = s.env := rfl

/-! ### push -/

@[simp] theorem State.push_v (a : Word) : (s.push a).v = s.v := rfl
@[simp] theorem State.push_i (a : Word) : (s.push a).i = s.i := rfl
@[simp] theorem State.push_pc (a : Word) : (s.push a).pc = s.pc := rfl
@[simp] theorem State.push_dt (a : Word) : (s.push a).dt = s.dt := rfl
@[simp] theorem State.push_st (a : Word) : (s.push a).st = s.st := rfl
@[simp] theorem State.push_stack (a : Word) : (s.push a).stack = s.stack.set (spUp s.cfg s.sp) (.pushed a) := rfl
@[simp] theorem State.push_sp (a : Word) : (s.push a).sp = spUp s.cfg s.sp := rfl
@[simp] theorem State.push_mem (a : Word) : (s.push a).mem = s.mem := rfl
@[simp] theorem State.push_fb (a : Word) : (s.push a).fb = s.fb := rfl
@[simp] theorem State.push_keys (a : Word) : (s.push a).keys = s.keys := rfl
@[simp] theorem State.push_run (a : Word) : (s.push a).run = s.run := rfl
@[simp] theorem State.push_strikes (a : Word) : (s.push a).strikes = s.strikes := rfl
@[simp] theorem State.push_wait (a : Word) : (s.push a).wait = s.wait := rfl
@[simp] theorem State.push_stopReq (a : Word) : (s.push a).stopReq = s.stopReq := rfl
@[simp] theorem State.push_diag (a : Word) : (s.push a).diag = s.diag := rfl
@[simp] theorem State.push_cfg (a : Word) : (s.push a).cfg = s.cfg := rfl
@[simp] theorem State.push_draws (a : Word) : (s.push a).draws = s.draws := rfl
@[simp] theorem State.push_env (a : Word) : (s.push a).env = s.env := rfl

/-! ### pop -/

@[simp] theorem State.pop_v : (s.pop.2).v = s.v := by unfold State.pop; split <;> rfl
@[simp] theorem State.pop_i : (s.pop.2).i = s.i := by unfold State.pop; split <;> rfl
@[simp] theorem State.pop_pc : (s.pop.2).pc = s.pc := by unfold State.pop; split <;> rfl
@[simp] theorem State.pop_dt : (s.pop.2).dt = s.dt := by unfold State.pop; split <;> rfl
@[simp] theorem State.pop_st : (s.pop.2).st = s.st := by unfold State.pop; split <;> rfl
@[simp] theorem State.pop_stack : (s.pop.2).stack = s.stack := by unfold State.pop; split <;> rfl
@[simp] theorem State.pop_sp : (s.pop.2).sp = spDown s.cfg s.sp := by unfold State.pop; split <;> rfl
@[simp] theorem State.pop_mem : (s.pop.2).mem = s.mem := by unfold State.pop; split <;> rfl
@[simp] theorem State.pop_fb : (s.pop.2).fb = s.fb := by unfold State.pop; split <;> rfl
@[simp] theorem State.pop_keys : (s.pop.2).keys = s.keys := by unfold State.pop; split <;> rfl
@[simp] theorem State.pop_run : (s.pop.2).run = s.run := by unfold State.pop; split <;> rfl
@[simp] theorem State.pop_strikes : (s.pop.2).strikes = s.strikes := by unfold State.pop; split <;> rfl
@[simp] theorem State.pop_wait : (s.pop.2).wait = s.wait := by unfold State.pop; split <;> rfl
@[simp] theorem State.pop_stopReq : (s.pop.2).stopReq = s.stopReq := by unfold State.pop; split <;> rfl
@[simp] theorem State.pop_diag : (s.pop.2).diag = s.diag := by unfold State.pop; split <;> rfl
@[simp] theorem State.pop_cfg : (s.pop.2).cfg = s.cfg := by unfold State.pop; split <;> rfl
@[simp] theorem State.pop_env : (s.pop.2).env = s.env := by unfold State.pop; split <;> rfl

/-! ### report -/

@[simp] theorem State.report_v (e : DiagEvent) : (s.report e).v = s.v := rfl
@[simp] theorem State.report_i (e : DiagEvent) : (s.report e).i = s.i := rfl
@[simp] theorem State.report_pc (e : DiagEvent) : (s.report e).pc = s.pc := rfl
@[simp] theorem State.report_dt (e : DiagEvent) : (s.report e).dt = s.dt := rfl
@[simp] theorem State.report_st (e : DiagEvent) : (s.report e).st = s.st := rfl
@[simp] theorem State.report_stack (e : DiagEvent) : (s.report e).stack = s.stack := rfl
@[simp] theorem State.report_sp (e : DiagEvent) : (s.report e).sp = s.sp := rfl
@[simp] theorem State.report_mem (e : DiagEvent) : (s.report e).mem = s.mem := rfl
@[simp] theorem State.report_fb (e : DiagEvent) : (s.report e).fb = s.fb := rfl
@[simp] theorem State.report_keys (e : DiagEvent) : (s.report e).keys = s.keys := rfl
@[simp] theorem State.report_run (e : DiagEvent) : (s.report e).run = s.run := rfl
@[simp] theorem State.report_strikes (e : DiagEvent) : (s.report e).strikes = s.strikes := rfl
@[simp] theorem State.report_wait (e : DiagEvent) : (s.report e).wait = s.wait := rfl
@[simp] theorem State.report_stopReq (e : DiagEvent) : (s.report e).stopReq = s.stopReq := rfl
@[simp] theorem State.report_diag (e : DiagEvent) : (s.report e).diag = s.diag ++ [e] := rfl
@[simp] theorem State.report_cfg (e : DiagEvent) : (s.report e).cfg = s.cfg := rfl
@[simp] theorem State.report_draws (e : DiagEvent) : (s.report e).draws = s.draws := rfl
@[simp] theorem State.report_env (e : DiagEvent) : (s.report e).env = s.env := rfl

/-! ### countStrike -/

@[simp] theorem State.countStrike_v (w : Word) : (s.countStrike w).v = s.v := rfl
@[simp] theorem State.countStrike_i (w : Word) : (s.countStrike w).i = s.i := rfl
@[simp] theorem State.countStrike_pc (w : Word) : (s.countStrike w).pc = s.pc := rfl
@[simp] theorem State.countStrike_dt (w : Word) : (s.countStrike w).dt = s.dt := rfl
@[simp] theorem State.countStrike_st (w : Word) : (s.countStrike w).st = s.st := rfl
@[simp] theorem State.countStrike_stack (w : Word) : (s.countStrike w).stack = s.stack := rfl
@[simp] theorem State.countStrike_sp (w : Word) : (s.countStrike w).sp = s.sp := rfl
@[simp] theorem State.countStrike_mem (w : Word) : (s.countStrike w).mem = s.mem := rfl
@[simp] theorem State.countStrike_fb (w : Word) : (s.countStrike w).fb = s.fb := rfl
@[simp] theorem State.countStrike_keys (w : Word) : (s.countStrike w).keys = s.keys := rfl
@[simp] theorem State.countStrike_run (w : Word) : (s.countStrike w).run = s.run := rfl
@[simp] theorem State.countStrike_strikes (w : Word) : (s.countStrike w).strikes = if w = 0x0000#16 then s.strikes + 1 else 0 :=
  rfl
@[simp] theorem State.countStrike_wait (w : Word) : (s.countStrike w).wait = s.wait := rfl
@[simp] theorem State.countStrike_stopReq (w : Word) : (s.countStrike w).stopReq = s.stopReq := rfl
@[simp] theorem State.countStrike_diag (w : Word) : (s.countStrike w).diag = s.diag := rfl
@[simp] theorem State.countStrike_cfg (w : Word) : (s.countStrike w).cfg = s.cfg := rfl
@[simp] theorem State.countStrike_draws (w : Word) : (s.countStrike w).draws = s.draws := rfl
@[simp] theorem State.countStrike_env (w : Word) : (s.countStrike w).env = s.env := rfl

/-! ### setKey -/

@[simp] theorem State.setKey_v (k : Byte) : (s.setKey k).v = s.v := rfl
@[simp] theorem State.setKey_i (k : Byte) : (s.setKey k).i = s.i := rfl
@[simp] theorem State.setKey_pc (k : Byte) : (s.setKey k).pc = s.pc := rfl
@[simp] theorem State.setKey_dt (k : Byte) : (s.setKey k).dt = s.dt := rfl
@[simp] theorem State.setKey_st (k : Byte) : (s.setKey k).st = s.st := rfl
@[simp] theorem State.setKey_stack (k : Byte) : (s.setKey k).stack = s.stack := rfl
@[simp] theorem State.setKey_sp (k : Byte) : (s.setKey k).sp = s.sp := rfl
@[simp] theorem State.setKey_mem (k : Byte) : (s.setKey k).mem = s.mem := rfl
@[simp] theorem State.setKey_fb (k : Byte) : (s.setKey k).fb = s.fb := rfl
@[simp] theorem State.setKey_keys (k : Byte) : (s.setKey k).keys = s.keys.set (keyIndex k) true := rfl
@[simp] theorem State.setKey_run (k : Byte) : (s.setKey k).run = s.run := rfl
@[simp] theorem State.setKey_strikes (k : Byte) : (s.setKey k).strikes = s.strikes := rfl
@[simp] theorem State.setKey_wait (k : Byte) : (s.setKey k).wait = s.wait := rfl
@[simp] theorem State.setKey_stopReq (k : Byte) : (s.setKey k).stopReq = s.stopReq := rfl
@[simp] theorem State.setKey_diag (k : Byte) : (s.setKey k).diag = s.diag := rfl
@[simp] theorem State.setKey_cfg (k : Byte) : (s.setKey k).cfg = s.cfg := rfl
@[simp] theorem State.setKey_draws (k : Byte) : (s.setKey k).draws = s.draws := rfl
@[simp] theorem State.setKey_env (k : Byte) : (s.setKey k).env = s.env := rfl

/-! ### unsetKey -/

@[simp] theorem State.unsetKey_v (k : Byte) : (s.unsetKey k).v = s.v := rfl
@[simp] theorem State.unsetKey_i (k : Byte) : (s.unsetKey k).i = s.i := rfl
@[simp] theorem State.unsetKey_pc (k : Byte) : (s.unsetKey k).pc = s.pc := rfl
@[simp] theorem State.unsetKey_dt (k : Byte) : (s.unsetKey k).dt = s.dt := rfl
@[simp] theorem State.unsetKey_st (k : Byte) : (s.unsetKey k).st = s.st := rfl
@[simp] theorem State.unsetKey_stack (k : Byte) : (s.unsetKey k).stack = s.stack := rfl
@[simp] theorem State.unsetKey_sp (k : Byte) : (s.unsetKey k).sp = s.sp := rfl
@[simp] theorem State.unsetKey_mem (k : Byte) : (s.unsetKey k).mem = s.mem := rfl
@[simp] theorem State.unsetKey_fb (k : Byte) : (s.unsetKey k).fb = s.fb := rfl
@[simp] theorem State.unsetKey_keys (k : Byte) : (s.unsetKey k).keys = s.keys.set (keyIndex k) false := rfl
@[simp] theorem State.unsetKey_run (k : Byte) : (s.unsetKey k).run = s.run := rfl
@[simp] theorem State.unsetKey_strikes (k : Byte) : (s.unsetKey k).strikes = s.strikes := rfl
@[simp] theorem State.unsetKey_wait (k : Byte) : (s.unsetKey k).wait = s.wait := rfl
@[simp] theorem State.unsetKey_stopReq (k : Byte) : (s.unsetKey k).stopReq = s.stopReq := rfl
@[simp] theorem State.unsetKey_diag (k : Byte) : (s.unsetKey k).diag = s.diag := rfl
@[simp] theorem State.unsetKey_cfg (k : Byte) : (s.unsetKey k).cfg = s.cfg := rfl
@[simp] theorem State.unsetKey_draws (k : Byte) : (s.unsetKey k).draws = s.draws := rfl
@[simp] theorem State.unsetKey_env (k : Byte) : (s.unsetKey k).env = s.env := rfl

/-! ### tick -/

@[simp] theorem State.tick_v : (s.tick).v = s.v := rfl
@[simp] theorem State.tick_i : (s.tick).i = s.i := rfl
@[simp] theorem State.tick_pc : (s.tick).pc = s.pc := rfl
@[simp] theorem State.tick_dt : (s.tick).dt = tickDown s.dt := rfl
@[simp] theorem State.tick_st : (s.tick).st = tickDown s.st := rfl
@[simp] theorem State.tick_stack : (s.tick).stack = s.stack := rfl
@[simp] theorem State.tick_sp : (s.tick).sp = s.sp := rfl
@[simp] theorem State.tick_mem : (s.tick).mem = s.mem := rfl
@[simp] theorem State.tick_fb : (s.tick).fb = s.fb := rfl
@[simp] theorem State.tick_keys : (s.tick).keys = s.keys := rfl
@[simp] theorem State.tick_run : (s.tick).run = s.run := rfl
@[simp] theorem State.tick_strikes : (s.tick).strikes = s.strikes := rfl
@[simp] theorem State.tick_wait : (s.tick).wait = s.wait := rfl
@[simp] theorem State.tick_stopReq : (s.tick).stopReq = s.stopReq := rfl
@[simp] theorem State.tick_diag : (s.tick).diag = s.diag := rfl
@[simp] theorem State.tick_cfg : (s.tick).cfg = s.cfg := rfl
@[simp] theorem State.tick_draws : (s.tick).draws = s.draws := rfl
@[simp] theorem State.tick_env : (s.tick).env = s.env := rfl

/-! ### setIndex -/

@[simp] theorem State.setIndex_v (w : Word) : (s.setIndex w).v = s.v := rfl
@[simp] theorem State.setIndex_i (w : Word) : (s.setIndex w).i = w := rfl
@[simp] theorem State.setIndex_pc (w : Word) : (s.setIndex w).pc = s.pc := rfl
@[simp] theorem State.setIndex_dt (w : Word) : (s.setIndex w).dt = s.dt := rfl
@[simp] theorem State.setIndex_st (w : Word) : (s.setIndex w).st = s.st := rfl
@[simp] theorem State.setIndex_stack (w : Word) : (s.setIndex w).stack = s.stack := rfl
@[simp] theorem State.setIndex_sp (w : Word) : (s.setIndex w).sp = s.sp := rfl
@[simp] theorem State.setIndex_mem (w : Word) : (s.setIndex w).mem = s.mem := rfl
@[simp] theorem State.setIndex_fb (w : Word) : (s.setIndex w).fb = s.fb := rfl
@[simp] theorem State.setIndex_keys (w : Word) : (s.setIndex w).keys = s.keys := rfl
@[simp] theorem State.setIndex_run (w : Word) : (s.setIndex w).run = s.run := rfl
@[simp] theorem State.setIndex_strikes (w : Word) : (s.setIndex w).strikes = s.strikes := rfl
@[simp] theorem State.setIndex_wait (w : Word) : (s.setIndex w).wait = s.wait := rfl
@[simp] theorem State.setIndex_stopReq (w : Word) : (s.setIndex w).stopReq = s.stopReq := rfl
@[simp] theorem State.setIndex_diag (w : Word) : (s.setIndex w).diag = s.diag := rfl
@[simp] theorem State.setIndex_cfg (w : Word) : (s.setIndex w).cfg = s.cfg := rfl
@[simp] theorem State.setIndex_draws (w : Word) : (s.setIndex w).draws = s.draws := rfl
@[simp] theorem State.setIndex_env (w : Word) : (s.setIndex w).env = s.env := rfl

/-! ### storeAtIndex -/

@[simp] theorem State.storeAtIndex_v (l : List Byte) : (s.storeAtIndex l).v = s.v := rfl
@[simp] theorem State.storeAtIndex_i (l : List Byte) : (s.storeAtIndex l).i = s.i := rfl
@[simp] theorem State.storeAtIndex_pc (l : List Byte) : (s.storeAtIndex l).pc = s.pc := rfl
@[simp] theorem State.storeAtIndex_dt (l : List Byte) : (s.storeAtIndex l).dt = s.dt := rfl
@[simp] theorem State.storeAtIndex_st (l : List Byte) : (s.storeAtIndex l).st = s.st := rfl
@[simp] theorem State.storeAtIndex_stack (l : List Byte) : (s.storeAtIndex l).stack = s.stack := rfl
@[simp] theorem State.storeAtIndex_sp (l : List Byte) : (s.storeAtIndex l).sp = s.sp := rfl
@[simp] theorem State.storeAtIndex_mem (l : List Byte) : (s.storeAtIndex l).mem = s.mem.writeBytes s.cfg.memSize s.i.toNat l :=
  rfl
@[simp] theorem State.storeAtIndex_fb (l : List Byte) : (s.storeAtIndex l).fb = s.fb := rfl
@[simp] theorem State.storeAtIndex_keys (l : List Byte) : (s.storeAtIndex l).keys = s.keys := rfl
@[simp] theorem State.storeAtIndex_run (l : List Byte) : (s.storeAtIndex l).run = s.run := rfl
@[simp] theorem State.storeAtIndex_strikes (l : List Byte) : (s.storeAtIndex l).strikes = s.strikes := rfl
@[simp] theorem State.storeAtIndex_wait (l : List Byte) : (s.storeAtIndex l).wait = s.wait := rfl
@[simp] theorem State.storeAtIndex_stopReq (l : List Byte) : (s.storeAtIndex l).stopReq = s.stopReq := rfl
@[simp] theorem State.storeAtIndex_diag (l : List Byte) : (s.storeAtIndex l).diag = s.diag := rfl
@[simp] theorem State.storeAtIndex_cfg (l : List Byte) : (s.storeAtIndex l).cfg = s.cfg := rfl
@[simp] theorem State.storeAtIndex_draws (l : List Byte) : (s.storeAtIndex l).draws = s.draws := rfl
@[simp] theorem State.storeAtIndex_env (l : List Byte) : (s.storeAtIndex l).env = s.env := rfl

/-! ### fetched -/

@[simp] theorem State.fetched_v (w : Word) : (s.fetched w).v = s.v := rfl
@[simp] theorem State.fetched_i (w : Word) : (s.fetched w).i = s.i := rfl
@[simp] theorem State.fetched_pc (w : Word) : (s.fetched w).pc = nextPc s.cfg s.pc := rfl
@[simp] theorem State.fetched_dt (w : Word) : (s.fetched w).dt = s.dt := rfl
@[simp] theorem State.fetched_st (w : Word) : (s.fetched w).st = s.st := rfl
@[simp] theorem State.fetched_stack (w : Word) : (s.fetched w).stack = s.stack := rfl
@[simp] theorem State.fetched_sp (w : Word) : (s.fetched w).sp = s.sp := rfl
@[simp] theorem State.fetched_mem (w : Word) : (s.fetched w).mem = s.mem := rfl
@[simp] theorem State.fetched_fb (w : Word) : (s.fetched w).fb = s.fb := rfl
@[simp] theorem State.fetched_keys (w : Word) : (s.fetched w).keys = s.keys := rfl
@[simp] theorem State.fetched_run (w : Word) : (s.fetched w).run = s.run := rfl
@[simp] theorem State.fetched_strikes (w : Word) : (s.fetched w).strikes = if w = 0x0000#16 then s.strikes + 1 else 0 :=
  rfl
@[simp] theorem State.fetched_wait (w : Word) : (s.fetched w).wait = s.wait := rfl
@[simp] theorem State.fetched_stopReq (w : Word) : (s.fetched w).stopReq = s.stopReq := rfl
@[simp] theorem State.fetched_diag (w : Word) : (s.fetched w).diag = s.diag := rfl
@[simp] theorem State.fetched_cfg (w : Word) : (s.fetched w).cfg = s.cfg := rfl
@[simp] theorem State.fetched_draws (w : Word) : (s.fetched w).draws = s.draws := rfl
@[simp] theorem State.fetched_env (w : Word) : (s.fetched w).env = s.env := rfl

/-! ### halt -/

@[simp] theorem State.halt_v : (s.halt).v = s.v := rfl
@[simp] theorem State.halt_i : (s.halt).i = s.i := rfl
@[simp] theorem State.halt_pc : (s.halt).pc = s.pc := rfl
@[simp] theorem State.halt_dt : (s.halt).dt = s.dt := rfl
@[simp] theorem State.halt_st : (s.halt).st = s.st := rfl
@[simp] theorem State.halt_stack : (s.halt).stack = s.stack := rfl
@[simp] theorem State.halt_sp : (s.halt).sp = s.sp := rfl
@[simp] theorem State.halt_mem : (s.halt).mem = s.mem := rfl
@[simp] theorem State.halt_fb : (s.halt).fb = s.fb := rfl
@[simp] theorem State.halt_keys : (s.halt).keys = s.keys := rfl
@[simp] theorem State.halt_run : (s.halt).run = .halted := rfl
@[simp] theorem State.halt_strikes : (s.halt).strikes = s.strikes := rfl
@[simp] theorem State.halt_wait : (s.halt).wait = s.wait := rfl
@[simp] theorem State.halt_stopReq : (s.halt).stopReq = s.stopReq := rfl
@[simp] theorem State.halt_diag : (s.halt).diag = s.diag ++ [.halt (prevPc s.cfg s.pc)] := rfl
@[simp] theorem State.halt_cfg : (s.halt).cfg = s.cfg := rfl
@[simp] theorem State.halt_draws : (s.halt).draws = s.draws := rfl
@[simp] theorem State.halt_env : (s.halt).env = { s.env with lateTick := true } := rfl

/-! ### haltIfStruck -/

@[simp] theorem State.haltIfStruck_v : (s.haltIfStruck).v = s.v := by unfold State.haltIfStruck; split <;> rfl
@[simp] theorem State.haltIfStruck_i : (s.haltIfStruck).i = s.i := by unfold State.haltIfStruck; split <;> rfl
@[simp] theorem State.haltIfStruck_pc : (s.haltIfStruck).pc = s.pc := by unfold State.haltIfStruck; split <;> rfl
@[simp] theorem State.haltIfStruck_dt : (s.haltIfStruck).dt = s.dt := by unfold State.haltIfStruck; split <;> rfl
@[simp] theorem State.haltIfStruck_st : (s.haltIfStruck).st = s.st := by unfold State.haltIfStruck; split <;> rfl
@[simp] theorem State.haltIfStruck_stack : (s.haltIfStruck).stack = s.stack :=
  by unfold State.haltIfStruck; split <;> rfl
@[simp] theorem State.haltIfStruck_sp : (s.haltIfStruck).sp = s.sp := by unfold State.haltIfStruck; split <;> rfl
@[simp] theorem State.haltIfStruck_mem : (s.haltIfStruck).mem = s.mem := by unfold State.haltIfStruck; split <;> rfl
@[simp] theorem State.haltIfStruck_fb : (s.haltIfStruck).fb = s.fb := by unfold State.haltIfStruck; split <;> rfl
@[simp] theorem State.haltIfStruck_keys : (s.haltIfStruck).keys = s.keys := by unfold State.haltIfStruck; split <;> rfl
@[simp] theorem State.haltIfStruck_strikes : (s.haltIfStruck).strikes = s.strikes :=
  by unfold State.haltIfStruck; split <;> rfl
@[simp] theorem State.haltIfStruck_wait : (s.haltIfStruck).wait = s.wait := by unfold State.haltIfStruck; split <;> rfl
@[simp] theorem State.haltIfStruck_stopReq : (s.haltIfStruck).stopReq = s.stopReq :=
  by unfold State.haltIfStruck; split <;> rfl
@[simp] theorem State.haltIfStruck_cfg : (s.haltIfStruck).cfg = s.cfg := by unfold State.haltIfStruck; split <;> rfl
@[simp] theorem State.haltIfStruck_draws : (s.haltIfStruck).draws = s.draws :=
  by unfold State.haltIfStruck; split <;> rfl

/-! ### beginCoreStep -/

@[simp] theorem State.beginCoreStep_v : (s.beginCoreStep).v = s.v := rfl
@[simp] theorem State.beginCoreStep_i : (s.beginCoreStep).i = s.i := rfl
@[simp] theorem State.beginCoreStep_pc : (s.beginCoreStep).pc = s.pc := rfl
@[simp] theorem State.beginCoreStep_dt : (s.beginCoreStep).dt = s.dt := rfl
@[simp] theorem State.beginCoreStep_st : (s.beginCoreStep).st = s.st := rfl
@[simp] theorem State.beginCoreStep_stack : (s.beginCoreStep).stack = s.stack := rfl
@[simp] theorem State.beginCoreStep_sp : (s.beginCoreStep).sp = s.sp := rfl
@[simp] theorem State.beginCoreStep_mem : (s.beginCoreStep).mem = s.mem := rfl
@[simp] theorem State.beginCoreStep_fb : (s.beginCoreStep).fb = s.fb := rfl
@[simp] theorem State.beginCoreStep_keys : (s.beginCoreStep).keys = s.keys := rfl
@[simp] theorem State.beginCoreStep_run : (s.beginCoreStep).run = s.run := rfl
@[simp] theorem State.beginCoreStep_strikes : (s.beginCoreStep).strikes = s.strikes := rfl
@[simp] theorem State.beginCoreStep_wait : (s.beginCoreStep).wait = s.wait := rfl
@[simp] theorem State.beginCoreStep_stopReq : (s.beginCoreStep).stopReq = s.stopReq := rfl
@[simp] theorem State.beginCoreStep_diag : (s.beginCoreStep).diag = s.diag := rfl
@[simp] theorem State.beginCoreStep_cfg : (s.beginCoreStep).cfg = s.cfg := rfl
@[simp] theorem State.beginCoreStep_draws : (s.beginCoreStep).draws = s.draws := rfl
@[simp] theorem State.beginCoreStep_env : (s.beginCoreStep).env = { s.env with stBefore := s.st } := rfl

/-! ### spendCycle -/

@[simp] theorem State.spendCycle_v : (s.spendCycle).v = s.v := by unfold State.spendCycle; split <;> rfl
@[simp] theorem State.spendCycle_i : (s.spendCycle).i = s.i := by unfold State.spendCycle; split <;> rfl
@[simp] theorem State.spendCycle_pc : (s.spendCycle).pc = s.pc := by unfold State.spendCycle; split <;> rfl
@[simp] theorem State.spendCycle_dt : (s.spendCycle).dt = s.dt := by unfold State.spendCycle; split <;> rfl
@[simp] theorem State.spendCycle_st : (s.spendCycle).st = s.st := by unfold State.spendCycle; split <;> rfl
@[simp] theorem State.spendCycle_stack : (s.spendCycle).stack = s.stack := by unfold State.spendCycle; split <;> rfl
@[simp] theorem State.spendCycle_sp : (s.spendCycle).sp = s.sp := by unfold State.spendCycle; split <;> rfl
@[simp] theorem State.spendCycle_mem : (s.spendCycle).mem = s.mem := by unfold State.spendCycle; split <;> rfl
@[simp] theorem State.spendCycle_fb : (s.spendCycle).fb = s.fb := by unfold State.spendCycle; split <;> rfl
@[simp] theorem State.spendCycle_keys : (s.spendCycle).keys = s.keys := by unfold State.spendCycle; split <;> rfl
@[simp] theorem State.spendCycle_run : (s.spendCycle).run = s.run := by unfold State.spendCycle; split <;> rfl
@[simp] theorem State.spendCycle_strikes : (s.spendCycle).strikes = s.strikes :=
  by unfold State.spendCycle; split <;> rfl
@[simp] theorem State.spendCycle_wait : (s.spendCycle).wait = s.wait := by unfold State.spendCycle; split <;> rfl
@[simp] theorem State.spendCycle_stopReq : (s.spendCycle).stopReq = s.stopReq :=
  by unfold State.spendCycle; split <;> rfl
@[simp] theorem State.spendCycle_diag : (s.spendCycle).diag = s.diag := by unfold State.spendCycle; split <;> rfl
@[simp] theorem State.spendCycle_cfg : (s.spendCycle).cfg = s.cfg := by unfold State.spendCycle; split <;> rfl
@[simp] theorem State.spendCycle_draws : (s.spendCycle).draws = s.draws := by unfold State.spendCycle; split <;> rfl

/-! ### spendTick -/

@[simp] theorem State.spendTick_v : (s.spendTick).v = s.v := by unfold State.spendTick; split <;> [rfl; (split <;> rfl)]
@[simp] theorem State.spendTick_i : (s.spendTick).i = s.i := by unfold State.spendTick; split <;> [rfl; (split <;> rfl)]
@[simp] theorem State.spendTick_pc : (s.spendTick).pc = s.pc :=
  by unfold State.spendTick; split <;> [rfl; (split <;> rfl)]
@[simp] theorem State.spendTick_dt : (s.spendTick).dt = s.dt :=
  by unfold State.spendTick; split <;> [rfl; (split <;> rfl)]
@[simp] theorem State.spendTick_st : (s.spendTick).st = s.st :=
  by unfold State.spendTick; split <;> [rfl; (split <;> rfl)]
@[simp] theorem State.spendTick_stack : (s.spendTick).stack = s.stack :=
  by unfold State.spendTick; split <;> [rfl; (split <;> rfl)]
@[simp] theorem State.spendTick_sp : (s.spendTick).sp = s.sp :=
  by unfold State.spendTick; split <;> [rfl; (split <;> rfl)]
@[simp] theorem State.spendTick_mem : (s.spendTick).mem = s.mem :=
  by unfold State.spendTick; split <;> [rfl; (split <;> rfl)]
@[simp] theorem State.spendTick_fb : (s.spendTick).fb = s.fb :=
  by unfold State.spendTick; split <;> [rfl; (split <;> rfl)]
@[simp] theorem State.spendTick_keys : (s.spendTick).keys = s.keys :=
  by unfold State.spendTick; split <;> [rfl; (split <;> rfl)]
@[simp] theorem State.spendTick_run : (s.spendTick).run = s.run :=
  by unfold State.spendTick; split <;> [rfl; (split <;> rfl)]
@[simp] theorem State.spendTick_strikes : (s.spendTick).strikes = s.strikes :=
  by unfold State.spendTick; split <;> [rfl; (split <;> rfl)]
@[simp] theorem State.spendTick_wait : (s.spendTick).wait = s.wait :=
  by unfold State.spendTick; split <;> [rfl; (split <;> rfl)]
@[simp] theorem State.spendTick_stopReq : (s.spendTick).stopReq = s.stopReq :=
  by unfold State.spendTick; split <;> [rfl; (split <;> rfl)]
@[simp] theorem State.spendTick_diag : (s.spendTick).diag = s.diag :=
  by unfold State.spendTick; split <;> [rfl; (split <;> rfl)]
@[simp] theorem State.spendTick_cfg : (s.spendTick).cfg = s.cfg :=
  by unfold State.spendTick; split <;> [rfl; (split <;> rfl)]
@[simp] theorem State.spendTick_draws : (s.spendTick).draws = s.draws :=
  by unfold State.spendTick; split <;> [rfl; (split <;> rfl)]

/-! ### endKeyWait -/

@[simp] theorem State.endKeyWait_i : (s.endKeyWait).i = s.i := by unfold State.endKeyWait; split <;> rfl
@[simp] theorem State.endKeyWait_pc : (s.endKeyWait).pc = s.pc := by unfold State.endKeyWait; split <;> rfl
@[simp] theorem State.endKeyWait_dt : (s.endKeyWait).dt = s.dt := by unfold State.endKeyWait; split <;> rfl
@[simp] theorem State.endKeyWait_st : (s.endKeyWait).st = s.st := by unfold State.endKeyWait; split <;> rfl
@[simp] theorem State.endKeyWait_stack : (s.endKeyWait).stack = s.stack := by unfold State.endKeyWait; split <;> rfl
@[simp] theorem State.endKeyWait_sp : (s.endKeyWait).sp = s.sp := by unfold State.endKeyWait; split <;> rfl
@[simp] theorem State.endKeyWait_mem : (s.endKeyWait).mem = s.mem := by unfold State.endKeyWait; split <;> rfl
@[simp] theorem State.endKeyWait_fb : (s.endKeyWait).fb = s.fb := by unfold State.endKeyWait; split <;> rfl
@[simp] theorem State.endKeyWait_keys : (s.endKeyWait).keys = s.keys := by unfold State.endKeyWait; split <;> rfl
@[simp] theorem State.endKeyWait_run : (s.endKeyWait).run = s.run := by unfold State.endKeyWait; split <;> rfl
@[simp] theorem State.endKeyWait_strikes : (s.endKeyWait).strikes = s.strikes :=
  by unfold State.endKeyWait; split <;> rfl
@[simp] theorem State.endKeyWait_stopReq : (s.endKeyWait).stopReq = s.stopReq :=
  by unfold State.endKeyWait; split <;> rfl
@[simp] theorem State.endKeyWait_diag : (s.endKeyWait).diag = s.diag := by unfold State.endKeyWait; split <;> rfl
@[simp] theorem State.endKeyWait_cfg : (s.endKeyWait).cfg = s.cfg := by unfold State.endKeyWait; split <;> rfl
@[simp] theorem State.endKeyWait_draws : (s.endKeyWait).draws = s.draws := by unfold State.endKeyWait; split <;> rfl
@[simp] theorem State.endKeyWait_env : (s.endKeyWait).env = s.env := by unfold State.endKeyWait; split <;> rfl

/-! ### seeStop -/

@[simp] theorem State.seeStop_v : (s.seeStop).v = s.v := rfl
@[simp] theorem State.seeStop_i : (s.seeStop).i = s.i := rfl
@[simp] theorem State.seeStop_pc : (s.seeStop).pc = s.pc := rfl
@[simp] theorem State.seeStop_dt : (s.seeStop).dt = s.dt := rfl
@[simp] theorem State.seeStop_st : (s.seeStop).st = s.st := rfl
@[simp] theorem State.seeStop_stack : (s.seeStop).stack = s.stack := rfl
@[simp] theorem State.seeStop_sp : (s.seeStop).sp = s.sp := rfl
@[simp] theorem State.seeStop_mem : (s.seeStop).mem = s.mem := rfl
@[simp] theorem State.seeStop_fb : (s.seeStop).fb = s.fb := rfl
@[simp] theorem State.seeStop_keys : (s.seeStop).keys = s.keys := rfl
@[simp] theorem State.seeStop_run : (s.seeStop).run = .halted := rfl
@[simp] theorem State.seeStop_strikes : (s.seeStop).strikes = s.strikes := rfl
@[simp] theorem State.seeStop_wait : (s.seeStop).wait = s.wait := rfl
@[simp] theorem State.seeStop_stopReq : (s.seeStop).stopReq = s.stopReq := rfl
@[simp] theorem State.seeStop_diag : (s.seeStop).diag = s.diag := rfl
@[simp] theorem State.seeStop_cfg : (s.seeStop).cfg = s.cfg := rfl
@[simp] theorem State.seeStop_draws : (s.seeStop).draws = s.draws := rfl
@[simp] theorem State.seeStop_env : (s.seeStop).env = { s.env with lateTick := true } := rfl

/-! ### start -/

@[simp] theorem State.start_v : (s.start).v = s.v := by unfold State.start; split <;> rfl
@[simp] theorem State.start_i : (s.start).i = s.i := by unfold State.start; split <;> rfl
@[simp] theorem State.start_pc : (s.start).pc = s.pc := by unfold State.start; split <;> rfl
@[simp] theorem State.start_dt : (s.start).dt = s.dt := by unfold State.start; split <;> rfl
@[simp] theorem State.start_st : (s.start).st = s.st := by unfold State.start; split <;> rfl
@[simp] theorem State.start_stack : (s.start).stack = s.stack := by unfold State.start; split <;> rfl
@[simp] theorem State.start_sp : (s.start).sp = s.sp := by unfold State.start; split <;> rfl
@[simp] theorem State.start_mem : (s.start).mem = s.mem := by unfold State.start; split <;> rfl
@[simp] theorem State.start_fb : (s.start).fb = s.fb := by unfold State.start; split <;> rfl
@[simp] theorem State.start_keys : (s.start).keys = s.keys := by unfold State.start; split <;> rfl
@[simp] theorem State.start_strikes : (s.start).strikes = s.strikes := by unfold State.start; split <;> rfl
@[simp] theorem State.start_wait : (s.start).wait = s.wait := by unfold State.start; split <;> rfl
@[simp] theorem State.start_stopReq : (s.start).stopReq = s.stopReq := by unfold State.start; split <;> rfl
@[simp] theorem State.start_diag : (s.start).diag = s.diag := by unfold State.start; split <;> rfl
@[simp] theorem State.start_cfg : (s.start).cfg = s.cfg := by unfold State.start; split <;> rfl
@[simp] theorem State.start_draws : (s.start).draws = s.draws := by unfold State.start; split <;> rfl
@[simp] theorem State.start_env : (s.start).env = s.env := by unfold State.start; split <;> rfl

/-! ### stop -/

@[simp] theorem State.stop_v : (s.stop).v = s.v := rfl
@[simp] theorem State.stop_i : (s.stop).i = s.i := rfl
@[simp] theorem State.stop_pc : (s.stop).pc = s.pc := rfl
@[simp] theorem State.stop_dt : (s.stop).dt = s.dt := rfl
@[simp] theorem State.stop_st : (s.stop).st = s.st := rfl
@[simp] theorem State.stop_stack : (s.stop).stack = s.stack := rfl
@[simp] theorem State.stop_sp : (s.stop).sp = s.sp := rfl
@[simp] theorem State.stop_mem : (s.stop).mem = s.mem := rfl
@[simp] theorem State.stop_fb : (s.stop).fb = s.fb := rfl
@[simp] theorem State.stop_keys : (s.stop).keys = s.keys := rfl
@[simp] theorem State.stop_run : (s.stop).run = if s.run = .idle then .halted else s.run := rfl
@[simp] theorem State.stop_strikes : (s.stop).strikes = s.strikes := rfl
@[simp] theorem State.stop_wait : (s.stop).wait = s.wait := rfl
@[simp] theorem State.stop_stopReq : (s.stop).stopReq = true := rfl
@[simp] theorem State.stop_diag : (s.stop).diag = s.diag := rfl
@[simp] theorem State.stop_cfg : (s.stop).cfg = s.cfg := rfl
@[simp] theorem State.stop_draws : (s.stop).draws = s.draws := rfl
@[simp] theorem State.stop_env : (s.stop).env = s.env := rfl

/-! ### takeSnapshot -/

@[simp] theorem State.takeSnapshot_v : (s.takeSnapshot).v = s.v := rfl
@[simp] theorem State.takeSnapshot_i : (s.takeSnapshot).i = s.i := rfl
@[simp] theorem State.takeSnapshot_pc : (s.takeSnapshot).pc = s.pc := rfl
@[simp] theorem State.takeSnapshot_dt : (s.takeSnapshot).dt = s.dt := rfl
@[simp] theorem State.takeSnapshot_st : (s.takeSnapshot).st = s.st := rfl
@[simp] theorem State.takeSnapshot_stack : (s.takeSnapshot).stack = s.stack := rfl
@[simp] theorem State.takeSnapshot_sp : (s.takeSnapshot).sp = s.sp := rfl
@[simp] theorem State.takeSnapshot_mem : (s.takeSnapshot).mem = s.mem := rfl
@[simp] theorem State.takeSnapshot_fb : (s.takeSnapshot).fb = s.fb := rfl
@[simp] theorem State.takeSnapshot_keys : (s.takeSnapshot).keys = s.keys := rfl
@[simp] theorem State.takeSnapshot_run : (s.takeSnapshot).run = s.run := rfl
@[simp] theorem State.takeSnapshot_strikes : (s.takeSnapshot).strikes = s.strikes := rfl
@[simp] theorem State.takeSnapshot_wait : (s.takeSnapshot).wait = s.wait := rfl
@[simp] theorem State.takeSnapshot_stopReq : (s.takeSnapshot).stopReq = s.stopReq := rfl
@[simp] theorem State.takeSnapshot_diag : (s.takeSnapshot).diag = s.diag := rfl
@[simp] theorem State.takeSnapshot_cfg : (s.takeSnapshot).cfg = s.cfg := rfl
@[simp] theorem State.takeSnapshot_draws : (s.takeSnapshot).draws = s.draws := rfl
@[simp] theorem State.takeSnapshot_env : (s.takeSnapshot).env = { s.env with snapshots := s.env.snapshots ++ [s.fb] } :=
  rfl

/-! ### pollSound -/

@[simp] theorem State.pollSound_v (b : Bool) : (s.pollSound b).v = s.v := rfl
@[simp] theorem State.pollSound_i (b : Bool) : (s.pollSound b).i = s.i := rfl
@[simp] theorem State.pollSound_pc (b : Bool) : (s.pollSound b).pc = s.pc := rfl
@[simp] theorem State.pollSound_dt (b : Bool) : (s.pollSound b).dt = s.dt := rfl
@[simp] theorem State.pollSound_st (b : Bool) : (s.pollSound b).st = s.st := rfl
@[simp] theorem State.pollSound_stack (b : Bool) : (s.pollSound b).stack = s.stack := rfl
@[simp] theorem State.pollSound_sp (b : Bool) : (s.pollSound b).sp = s.sp := rfl
@[simp] theorem State.pollSound_mem (b : Bool) : (s.pollSound b).mem = s.mem := rfl
@[simp] theorem State.pollSound_fb (b : Bool) : (s.pollSound b).fb = s.fb := rfl
@[simp] theorem State.pollSound_keys (b : Bool) : (s.pollSound b).keys = s.keys := rfl
@[simp] theorem State.pollSound_run (b : Bool) : (s.pollSound b).run = s.run := rfl
@[simp] theorem State.pollSound_strikes (b : Bool) : (s.pollSound b).strikes = s.strikes := rfl
@[simp] theorem State.pollSound_wait (b : Bool) : (s.pollSound b).wait = s.wait := rfl
@[simp] theorem State.pollSound_stopReq (b : Bool) : (s.pollSound b).stopReq = s.stopReq := rfl
@[simp] theorem State.pollSound_diag (b : Bool) : (s.pollSound b).diag = s.diag := rfl
@[simp] theorem State.pollSound_cfg (b : Bool) : (s.pollSound b).cfg = s.cfg := rfl
@[simp] theorem State.pollSound_draws (b : Bool) : (s.pollSound b).draws = s.draws := rfl
@[simp] theorem State.pollSound_env (b : Bool) : (s.pollSound b).env = { s.env with polls := s.env.polls ++ [s.soundAnswer b] } :=
  rfl

/-! ### drawRound -/

@[simp] theorem State.drawRound_v : (s.drawRound).v = s.v := rfl
@[simp] theorem State.drawRound_i : (s.drawRound).i = s.i := rfl
@[simp] theorem State.drawRound_pc : (s.drawRound).pc = s.pc := rfl
@[simp] theorem State.drawRound_dt : (s.drawRound).dt = s.dt := rfl
@[simp] theorem State.drawRound_st : (s.drawRound).st = s.st := rfl
@[simp] theorem State.drawRound_stack : (s.drawRound).stack = s.stack := rfl
@[simp] theorem State.drawRound_sp : (s.drawRound).sp = s.sp := rfl
@[simp] theorem State.drawRound_mem : (s.drawRound).mem = s.mem := rfl
@[simp] theorem State.drawRound_fb : (s.drawRound).fb = s.fb := rfl
@[simp] theorem State.drawRound_keys : (s.drawRound).keys = s.keys := rfl
@[simp] theorem State.drawRound_run : (s.drawRound).run = s.run := rfl
@[simp] theorem State.drawRound_strikes : (s.drawRound).strikes = s.strikes := rfl
@[simp] theorem State.drawRound_wait : (s.drawRound).wait = s.wait := rfl
@[simp] theorem State.drawRound_stopReq : (s.drawRound).stopReq = s.stopReq := rfl
@[simp] theorem State.drawRound_diag : (s.drawRound).diag = s.diag := rfl
@[simp] theorem State.drawRound_cfg : (s.drawRound).cfg = s.cfg := rfl
@[simp] theorem State.drawRound_draws : (s.drawRound).draws = s.draws := rfl
@[simp] theorem State.drawRound_env : (s.drawRound).env = { s.env with schedule := roundMoves s.env.rounds, rounds := s.env.rounds + 1 } :=
  rfl

/-! ### passOver -/

@[simp] theorem Move.passOver_v (m : Move) : (m.passOver s).v = s.v :=
  by unfold Move.passOver; split <;> first | rfl | (split <;> rfl)
@[simp] theorem Move.passOver_i (m : Move) : (m.passOver s).i = s.i :=
  by unfold Move.passOver; split <;> first | rfl | (split <;> rfl)
@[simp] theorem Move.passOver_pc (m : Move) : (m.passOver s).pc = s.pc :=
  by unfold Move.passOver; split <;> first | rfl | (split <;> rfl)
@[simp] theorem Move.passOver_dt (m : Move) : (m.passOver s).dt = s.dt :=
  by unfold Move.passOver; split <;> first | rfl | (split <;> rfl)
@[simp] theorem Move.passOver_st (m : Move) : (m.passOver s).st = s.st :=
  by unfold Move.passOver; split <;> first | rfl | (split <;> rfl)
@[simp] theorem Move.passOver_stack (m : Move) : (m.passOver s).stack = s.stack :=
  by unfold Move.passOver; split <;> first | rfl | (split <;> rfl)
@[simp] theorem Move.passOver_sp (m : Move) : (m.passOver s).sp = s.sp :=
  by unfold Move.passOver; split <;> first | rfl | (split <;> rfl)
@[simp] theorem Move.passOver_mem (m : Move) : (m.passOver s).mem = s.mem :=
  by unfold Move.passOver; split <;> first | rfl | (split <;> rfl)
@[simp] theorem Move.passOver_fb (m : Move) : (m.passOver s).fb = s.fb :=
  by unfold Move.passOver; split <;> first | rfl | (split <;> rfl)
@[simp] theorem Move.passOver_keys (m : Move) : (m.passOver s).keys = s.keys :=
  by unfold Move.passOver; split <;> first | rfl | (split <;> rfl)
@[simp] theorem Move.passOver_run (m : Move) : (m.passOver s).run = s.run :=
  by unfold Move.passOver; split <;> first | rfl | (split <;> rfl)
@[simp] theorem Move.passOver_strikes (m : Move) : (m.passOver s).strikes = s.strikes :=
  by unfold Move.passOver; split <;> first | rfl | (split <;> rfl)
@[simp] theorem Move.passOver_wait (m : Move) : (m.passOver s).wait = s.wait :=
  by unfold Move.passOver; split <;> first | rfl | (split <;> rfl)
@[simp] theorem Move.passOver_stopReq (m : Move) : (m.passOver s).stopReq = s.stopReq :=
  by unfold Move.passOver; split <;> first | rfl | (split <;> rfl)
@[simp] theorem Move.passOver_diag (m : Move) : (m.passOver s).diag = s.diag :=
  by unfold Move.passOver; split <;> first | rfl | (split <;> rfl)
@[simp] theorem Move.passOver_cfg (m : Move) : (m.passOver s).cfg = s.cfg :=
  by unfold Move.passOver; split <;> first | rfl | (split <;> rfl)
@[simp] theorem Move.passOver_draws (m : Move) : (m.passOver s).draws = s.draws :=
  by unfold Move.passOver; split <;> first | rfl | (split <;> rfl)

/-! ### withSchedule -/

@[simp] theorem State.withSchedule_v (l : List Move) : (s.withSchedule l).v = s.v := rfl
@[simp] theorem State.withSchedule_i (l : List Move) : (s.withSchedule l).i = s.i := rfl
@[simp] theorem State.withSchedule_pc (l : List Move) : (s.withSchedule l).pc = s.pc := rfl
@[simp] theorem State.withSchedule_dt (l : List Move) : (s.withSchedule l).dt = s.dt := rfl
@[simp] theorem State.withSchedule_st (l : List Move) : (s.withSchedule l).st = s.st := rfl
@[simp] theorem State.withSchedule_stack (l : List Move) : (s.withSchedule l).stack = s.stack := rfl
@[simp] theorem State.withSchedule_sp (l : List Move) : (s.withSchedule l).sp = s.sp := rfl
@[simp] theorem State.withSchedule_mem (l : List Move) : (s.withSchedule l).mem = s.mem := rfl
@[simp] theorem State.withSchedule_fb (l : List Move) : (s.withSchedule l).fb = s.fb := rfl
@[simp] theorem State.withSchedule_keys (l : List Move) : (s.withSchedule l).keys = s.keys := rfl
@[simp] theorem State.withSchedule_run (l : List Move) : (s.withSchedule l).run = s.run := rfl
@[simp] theorem State.withSchedule_strikes (l : List Move) : (s.withSchedule l).strikes = s.strikes := rfl
@[simp] theorem State.withSchedule_wait (l : List Move) : (s.withSchedule l).wait = s.wait := rfl
@[simp] theorem State.withSchedule_stopReq (l : List Move) : (s.withSchedule l).stopReq = s.stopReq := rfl
@[simp] theorem State.withSchedule_diag (l : List Move) : (s.withSchedule l).diag = s.diag := rfl
@[simp] theorem State.withSchedule_cfg (l : List Move) : (s.withSchedule l).cfg = s.cfg := rfl
@[simp] theorem State.withSchedule_draws (l : List Move) : (s.withSchedule l).draws = s.draws := rfl
@[simp] theorem State.withSchedule_env (l : List Move) : (s.withSchedule l).env = { s.env with schedule := l } := rfl

end Sys2Proof.Machine
end

