-- ==== Sys2Proof/Laws/Ops.lean ====
section
/-! SUPPORT. One lemma per shared operation, saying what it answers. -/
namespace Sys2Proof.Machine

/-! ### Registers -/

@[simp] theorem State.reg_setReg_self (s : State) (r : Reg) (b : Byte) : (s.setReg r b).reg r = b := by
  simp [State.reg]

theorem State.reg_setReg_of_ne (s : State) {r q : Reg} (b : Byte) (h : q ≠ r) :
    (s.setReg r b).reg q = s.reg q := by
  have : r.val ≠ q.val := fun e => h (Fin.ext e.symm)
  simp [State.reg, this]

/-- What one register write does to every read. -/
theorem State.reg_setReg (s : State) (r q : Reg) (b : Byte) :
    (s.setReg r b).reg q = if q = r then b else s.reg q := by
  split
  · subst q; simp
  · exact State.reg_setReg_of_ne s b ‹_›

/-- Reads of V depend on the register file alone. -/
theorem State.reg_congr {s t : State} (h : t.v = s.v) (r : Reg) : t.reg r = s.reg r := by
  simp [State.reg, h]

/-! ### The parameters (R10; log 1) -/

/-- What a legal configuration says of the memory size: a divisor of 65536 that holds the font. -/
theorem RunConfig.legal_memSize {c : RunConfig} (h : c.legal = true) :
    65536 % c.memSize = 0 ∧ 80 ≤ c.memSize ∧ c.memSize ≤ 65536 ∧ c.fontBase + 80 ≤ c.memSize ∧
      c.progOrigin < c.memSize := by
  simp only [RunConfig.legal, Config.fontBytes, Config.fontGlyphs, Config.glyphBytes, Bool.and_eq_true,
    decide_eq_true_eq] at h
  obtain ⟨⟨⟨⟨⟨⟨⟨h1, h2⟩, h3⟩, -⟩, -⟩, -⟩, -⟩, -⟩ := h
  have := Nat.le_of_dvd (by decide) (Nat.dvd_of_mod_eq_zero h1)
  omega

/-- What a legal configuration says of the other sizes. -/
theorem RunConfig.legal_sizes {c : RunConfig} (h : c.legal = true) :
    1 ≤ c.stackDepth ∧ 0 < c.screenW ∧ 0 < c.screenH ∧ 0 < c.haltStrikes := by
  simp only [RunConfig.legal, Bool.and_eq_true, decide_eq_true_eq] at h
  omega

/-! ### Program counter -/

theorem nextPc_toNat {c : RunConfig} (h : c.legal = true) (pc : Word) :
    (nextPc c pc).toNat = (pc.toNat + 2) % c.memSize := by
  have hs := RunConfig.legal_memSize h
  have := Nat.mod_lt (pc.toNat + 2) (show 0 < c.memSize by omega)
  simp only [nextPc, BitVec.toNat_ofNat]
  exact Nat.mod_eq_of_lt (by omega)

/-- R38: "after any fetch `PC < MEM_SIZE`". -/
theorem nextPc_lt {c : RunConfig} (h : c.legal = true) (pc : Word) : (nextPc c pc).toNat < c.memSize := by
  have hs := RunConfig.legal_memSize h
  rw [nextPc_toNat h]
  exact Nat.mod_lt _ (by omega)

theorem prevPc_toNat {c : RunConfig} (h : c.legal = true) (pc : Word) :
    (prevPc c pc).toNat = (pc.toNat + c.memSize - 2) % c.memSize := by
  have hs := RunConfig.legal_memSize h
  have := Nat.mod_lt (pc.toNat + c.memSize - 2) (show 0 < c.memSize by omega)
  simp only [prevPc, BitVec.toNat_ofNat]
  exact Nat.mod_eq_of_lt (by omega)

/-- Back by 2 after on by 2 is the address the fetch read at (R193). -/
theorem mod_add_sub {a n : Nat} (h : 2 ≤ n) : ((a + 2) % n + n - 2) % n = a % n := by
  have e : (a + 2) % n + n - 2 = (a + 2) % n + (n - 2) := by omega
  rw [e, Nat.mod_add_mod, show a + 2 + (n - 2) = a + n by omega, Nat.add_mod_right]

theorem prevPc_nextPc_toNat {c : RunConfig} (h : c.legal = true) (pc : Word) :
    (prevPc c (nextPc c pc)).toNat = pc.toNat % c.memSize := by
  have hs := RunConfig.legal_memSize h
  rw [prevPc_toNat h, nextPc_toNat h, mod_add_sub (by omega)]

/-- The address of the fetched word, from the `PC` the fetch left (R193). -/
theorem prevPc_nextPc {c : RunConfig} (h : c.legal = true) (pc : Word) :
    prevPc c (nextPc c pc) = BitVec.ofNat 16 (pc.toNat % c.memSize) := by
  have hs := RunConfig.legal_memSize h
  apply BitVec.eq_of_toNat_eq
  have := Nat.mod_lt pc.toNat (show 0 < c.memSize by omega)
  rw [prevPc_nextPc_toNat h, BitVec.toNat_ofNat]
  exact (Nat.mod_eq_of_lt (by omega)).symm

/-! ### Return stack -/

theorem spUp_lt {c : RunConfig} {sp : Nat} (h : sp < c.stackDepth) : spUp c sp < c.stackDepth :=
  Nat.mod_lt _ (by omega)

theorem spDown_lt {c : RunConfig} {sp : Nat} (h : sp < c.stackDepth) : spDown c sp < c.stackDepth :=
  Nat.mod_lt _ (by omega)

theorem spDown_spUp {c : RunConfig} {sp : Nat} (h : sp < c.stackDepth) : spDown c (spUp c sp) = sp := by
  unfold spDown spUp
  rw [Nat.add_sub_assoc (by omega), Nat.mod_add_mod, show sp + 1 + (c.stackDepth - 1) = sp + c.stackDepth by omega,
    Nat.add_mod_right, Nat.mod_eq_of_lt h]

theorem spUp_spDown {c : RunConfig} {sp : Nat} (h : sp < c.stackDepth) : spUp c (spDown c sp) = sp := by
  unfold spDown spUp
  rw [Nat.mod_add_mod, show sp + c.stackDepth - 1 + 1 = sp + c.stackDepth by omega, Nat.add_mod_right,
    Nat.mod_eq_of_lt h]

theorem State.topSlot_eq {s : State} {k : Slot} (h : s.stack[s.sp]? = some k) : s.topSlot = k := by
  rw [State.topSlot, h]
  rfl

/-- A pop of a pushed slot gives its address and moves SP down (R46). -/
theorem State.pop_pushed {s : State} {a : Word} (h : s.topSlot = .pushed a) :
    s.pop = (a, { s with sp := spDown s.cfg s.sp }) := by
  unfold State.pop
  rw [h]

/-- A pop of a slot no push has written gives a draw (R48). -/
theorem State.pop_unwritten {s : State} (h : s.topSlot = .unwritten) :
    s.pop = (Config.unwrittenSlot s.draws, { s with sp := spDown s.cfg s.sp, draws := s.draws + 1 }) := by
  unfold State.pop
  rw [h]

/-- The slot a push wrote is the top slot after it (R45). -/
theorem State.topSlot_push {s : State} (hl : s.stack.length = s.cfg.stackDepth) (hs : s.sp < s.cfg.stackDepth)
    (a : Word) : (s.push a).topSlot = .pushed a := by
  apply State.topSlot_eq
  rw [State.push_stack, State.push_sp, List.getElem?_set_self (by rw [hl]; exact spUp_lt hs)]

/-- A pop right after a push gives the pushed address and the old SP. -/
theorem State.pop_push {s : State} (hl : s.stack.length = s.cfg.stackDepth) (hs : s.sp < s.cfg.stackDepth) (a : Word) :
    (s.push a).pop = (a, { s with stack := s.stack.set (spUp s.cfg s.sp) (.pushed a) }) := by
  rw [State.pop_pushed (State.topSlot_push hl hs a)]
  simp [State.push, spDown_spUp hs]

/-! ### Skips -/

/-- A skip instruction moves PC by one word if its condition holds, and does nothing else (R100). -/
theorem State.skipIf_eq (s : State) (c : Bool) :
    s.skipIf c = { s with pc := if c then nextPc s.cfg s.pc else s.pc } := by
  cases c <;> rfl

/-! ### Keyboard -/

theorem keyIndex_val (k : Byte) : (keyIndex k).val = k.toNat % 16 := by
  simp [keyIndex]

/-- `nextPressedKey` answers a key exactly when it is the lowest one down (R176). -/
theorem State.nextPressedKey_eq_some {s : State} {k : Key} :
    s.nextPressedKey = some k ↔ s.keys[k] = true ∧ ∀ j : Key, j < k → s.keys[j] = false := by
  unfold State.nextPressedKey keyOrder
  generalize s.keys = v
  rw [List.find?_eq_some_iff_getElem]
  constructor
  · rintro ⟨hk, i, hi, he, hlow⟩
    have hi' : i < 16 := by simpa using hi
    refine ⟨hk, fun j hj => ?_⟩
    have hidx : ∀ m (hm : m < 16), ([0, 1, 2, 3, 4, 5, 6, 7, 8, 9, 10, 11, 12, 13, 14, 15] : List Key)[m] = ⟨m, hm⟩ := by
      decide
    rw [hidx i hi'] at he
    have hjk : j.val < i := by rw [← he] at hj; exact hj
    have := hlow j.val hjk
    rw [hidx j.val j.isLt] at this
    simpa using this
  · rintro ⟨hk, hlow⟩
    have hidx : ∀ m (hm : m < 16), ([0, 1, 2, 3, 4, 5, 6, 7, 8, 9, 10, 11, 12, 13, 14, 15] : List Key)[m] = ⟨m, hm⟩ := by
      decide
    refine ⟨hk, k.val, by simp, hidx k.val k.isLt, fun j hj => ?_⟩
    rw [hidx j (Nat.lt_trans hj k.isLt)]
    simpa using hlow ⟨j, Nat.lt_trans hj k.isLt⟩ hj

theorem State.nextPressedKey_eq_none {s : State} :
    s.nextPressedKey = none ↔ ∀ j : Key, s.keys[j] = false := by
  unfold State.nextPressedKey
  rw [List.find?_eq_none]
  have hall : ∀ j : Key, j ∈ keyOrder := by decide
  exact ⟨fun h j => by simpa using h j (hall j), fun h j _ => by simp [h j]⟩

/-- The end of a key wait, where a key is down (R181). -/
theorem State.endKeyWait_eq {s : State} {x : Reg} {k : Key} (hw : s.wait = some x)
    (hk : s.nextPressedKey = some k) : s.endKeyWait = { s.setReg x (keyByte k) with wait := none } := by
  unfold State.endKeyWait
  rw [hw, hk]

/-- The lowest key down depends on the keyboard alone. -/
theorem State.nextPressedKey_congr {s t : State} (h : t.keys = s.keys) : t.nextPressedKey = s.nextPressedKey := by
  unfold State.nextPressedKey
  rw [h]

theorem keyByte_toNat (k : Key) : (keyByte k).toNat = k.val := by
  have : k.val < 16 := k.isLt
  simp only [keyByte, BitVec.toNat_ofNat]
  omega

/-! ### Fetch -/

/-- What a read of memory gives depends on memory and its size alone. -/
theorem State.readByte_congr {s t : State} (hm : t.mem = s.mem) (hc : t.cfg = s.cfg) (a : Nat) :
    t.readByte a = s.readByte a := by
  unfold State.readByte
  rw [hm, hc]

/-- The word fetched depends on memory, its size and PC alone. -/
theorem State.nextWord_congr {s t : State} (hm : t.mem = s.mem) (hc : t.cfg = s.cfg) (hp : t.pc = s.pc) :
    t.nextWord = s.nextWord := by
  unfold State.nextWord State.fetchWord
  rw [State.readByte_congr hm hc, State.readByte_congr hm hc, hp]

@[simp] theorem State.nextWord_withSchedule (s : State) (l : List Move) :
    (s.withSchedule l).nextWord = s.nextWord := rfl
@[simp] theorem State.nextWord_beginCoreStep (s : State) : s.beginCoreStep.nextWord = s.nextWord := rfl
@[simp] theorem State.nextWord_spendCycle (s : State) : s.spendCycle.nextWord = s.nextWord :=
  State.nextWord_congr (by simp) (by simp) (by simp)

/-- The byte at the lower address is the high byte of the word (R80, R81). -/
theorem State.fetchWord_toNat (s : State) (pc : Nat) :
    (s.fetchWord pc).toNat = (s.readByte pc).toNat * 256 + (s.readByte (pc + 1)).toNat := by
  have h : (s.fetchWord pc).toNat = ((s.readByte pc).toNat <<< 8) ||| (s.readByte (pc + 1)).toNat :=
    BitVec.toNat_append ..
  rw [h, Nat.shiftLeft_eq, Nat.mul_comm, ← Nat.two_pow_add_eq_or_of_lt (s.readByte (pc + 1)).isLt]

/-- The two bytes of a fetched word (R80, R81). -/
theorem State.fetchWord_bytes (s : State) (pc : Nat) :
    (s.fetchWord pc).toNat / 256 = (s.readByte pc).toNat ∧
      (s.fetchWord pc).toNat % 256 = (s.readByte (pc + 1)).toNat := by
  have := (s.readByte (pc + 1)).isLt
  rw [State.fetchWord_toNat]
  omega

/-! ### Timers and flags -/

theorem tickDown_toNat (t : Byte) : (tickDown t).toNat = t.toNat - 1 := by
  have := t.isLt
  unfold tickDown
  split
  · show (t - 1#8).toNat = _
    simp only [BitVec.toNat_sub, BitVec.toNat_ofNat]
    omega
  · omega

theorem flagByte_toNat (c : Bool) : (flagByte c).toNat = if c then 1 else 0 := by
  cases c <;> rfl

/-- VF after 8XY4 (R42, R137). -/
theorem carryFlag_toNat (a b : Byte) :
    (carryFlag a b).toNat = if 255 < a.toNat + b.toNat then 1 else 0 := by
  rw [carryFlag, flagByte_toNat]
  by_cases h : 255 < a.toNat + b.toNat <;> simp [h]

/-- VF after 8XY5 and 8XY7, of minuend `a` and subtrahend `b` (R42, R138, R140). -/
theorem notBorrowFlag_toNat (a b : Byte) :
    (notBorrowFlag a b).toNat = if a.toNat < b.toNat then 0 else 1 := by
  rw [notBorrowFlag, flagByte_toNat]
  by_cases h : a.toNat < b.toNat <;> simp [h]

/-- VF after 8XY6, before the shift writes its result (R42, R139). -/
theorem lowBitFlag_toNat (a : Byte) : (lowBitFlag a).toNat = a.toNat % 2 := by
  simp [lowBitFlag]

/-- VF after 8XYE, before the shift writes its result (R42, R141). -/
theorem highBitFlag_toNat (a : Byte) : (highBitFlag a).toNat = a.toNat / 128 := by
  have := a.isLt
  rw [highBitFlag, flagByte_toNat]
  by_cases h : 128 ≤ a.toNat
  · rw [decide_eq_true h, if_pos rfl]
    omega
  · rw [decide_eq_false h, if_neg (by decide)]
    omega

/-! ### Operand forms -/

theorem addrOperand_toNat (nnn : Addr12) : (addrOperand nnn).toNat = nnn.toNat := by
  have := nnn.isLt
  simp only [addrOperand, BitVec.toNat_setWidth]
  omega

/-- BNNN's target; 16 bits hold every sum (R118). -/
theorem offsetTarget_toNat (nnn : Addr12) (b : Byte) : (offsetTarget nnn b).toNat = nnn.toNat + b.toNat := by
  have := nnn.isLt
  have := b.isLt
  simp only [offsetTarget, BitVec.toNat_add, addrOperand_toNat, BitVec.toNat_setWidth]
  omega

/-- FX1E's sum wraps at 16 bits (R151). -/
theorem indexPlus_toNat (i : Word) (b : Byte) : (indexPlus i b).toNat = (i.toNat + b.toNat) % 65536 := by
  have := b.isLt
  simp only [indexPlus, BitVec.toNat_add, BitVec.toNat_setWidth]
  omega

theorem glyphAddr_toNat (base : Nat) (b : Byte) : (glyphAddr base b).toNat = (base + 5 * b.toNat) % 65536 := by
  simp [glyphAddr]

theorem State.length_spriteBytes (s : State) (n : Nat) : (s.spriteBytes n).length = n := by
  simp [State.spriteBytes]

theorem State.getElem?_spriteBytes (s : State) {n r : Nat} (h : r < n) :
    (s.spriteBytes n)[r]? = some (s.readByte (s.i.toNat + r)) := by
  simp [State.spriteBytes, indexAddr, h]

theorem length_decimalDigits (b : Byte) : (decimalDigits b).length = 3 := rfl

/-! ### Register blocks -/

theorem length_regBlock (v : Vector Byte Config.numV) (x : Reg) : (regBlock v x).length = x.val + 1 := by
  have := x.isLt
  simp only [regBlock, List.length_take, Vector.length_toList]
  omega

theorem getElem_regBlock (v : Vector Byte Config.numV) (x : Reg) (j : Nat) (h : j < (regBlock v x).length) :
    (regBlock v x)[j] = v[j]'(by rw [length_regBlock] at h; omega) := by
  simp [regBlock]

theorem State.getElem_loadBlock (s : State) (x r : Reg) :
    (s.loadBlock x)[r] = if r ≤ x then s.readByte (indexAddr s.i r.val) else s.v[r] := by
  simp only [State.loadBlock, Fin.getElem_fin, Vector.getElem_mapIdx, Fin.le_def]

/-- What a store at `I` leaves in every byte it names, if it is no longer than memory (R83, R156). -/
theorem State.readByte_storeAtIndex {s : State} {l : List Byte} (hl : l.length ≤ s.cfg.memSize) {j : Nat}
    (hj : j < l.length) : (s.storeAtIndex l).readByte (s.i.toNat + j) = l[j] :=
  Memory.read_writeBytes s.mem s.cfg.memSize s.i.toNat l hl hj

/-- A store at `I` leaves every other byte (R83). -/
theorem State.readByte_storeAtIndex_of_ne {s : State} {l : List Byte} {a : Nat}
    (h : ∀ j < l.length, a % s.cfg.memSize ≠ (s.i.toNat + j) % s.cfg.memSize) :
    (s.storeAtIndex l).readByte a = s.readByte a :=
  Memory.read_writeBytes_of_ne s.mem s.cfg.memSize s.i.toNat l h

end Sys2Proof.Machine
end

