-- ==== Sys2Proof/Laws/PerInstr.lean ====
section
/-! SUPPORT. Statements made once per instruction: `EncodeRow`, that the word an instruction encodes to matches the
row of spec/30_encoding.md R95 the instruction belongs to. -/
namespace Sys2Proof.Laws.EncodeRow

/-- The encoded word, masked, is the row's match value (R95). -/
def Statement (i : Instr) : Prop := encode i &&& (Decode.rowOf i).1 = (Decode.rowOf i).2

theorem nop : Statement .nop := rfl
theorem cls : Statement .cls := rfl
theorem ret : Statement .ret := rfl
theorem jp (nnn : Addr12) : Statement (.jp nnn) := (Encode.mask_addr _ _).trans rfl
theorem call (nnn : Addr12) : Statement (.call nnn) := (Encode.mask_addr _ _).trans rfl
theorem seImm (x : Reg) (kk : Byte) : Statement (.seImm x kk) := (Encode.mask_xkk _ _ _).trans rfl
theorem sneImm (x : Reg) (kk : Byte) : Statement (.sneImm x kk) := (Encode.mask_xkk _ _ _).trans rfl
theorem seReg (x : Reg) (y : Reg) : Statement (.seReg x y) := (Encode.mask_nibble _ _ _ _).trans rfl
theorem ldImm (x : Reg) (kk : Byte) : Statement (.ldImm x kk) := (Encode.mask_xkk _ _ _).trans rfl
theorem addImm (x : Reg) (kk : Byte) : Statement (.addImm x kk) := (Encode.mask_xkk _ _ _).trans rfl
theorem ldReg (x : Reg) (y : Reg) : Statement (.ldReg x y) := (Encode.mask_nibble _ _ _ _).trans rfl
theorem orReg (x : Reg) (y : Reg) : Statement (.orReg x y) := (Encode.mask_nibble _ _ _ _).trans rfl
theorem andReg (x : Reg) (y : Reg) : Statement (.andReg x y) := (Encode.mask_nibble _ _ _ _).trans rfl
theorem xorReg (x : Reg) (y : Reg) : Statement (.xorReg x y) := (Encode.mask_nibble _ _ _ _).trans rfl
theorem addReg (x : Reg) (y : Reg) : Statement (.addReg x y) := (Encode.mask_nibble _ _ _ _).trans rfl
theorem subReg (x : Reg) (y : Reg) : Statement (.subReg x y) := (Encode.mask_nibble _ _ _ _).trans rfl
theorem shr (x : Reg) (y : Reg) : Statement (.shr x y) := (Encode.mask_nibble _ _ _ _).trans rfl
theorem subn (x : Reg) (y : Reg) : Statement (.subn x y) := (Encode.mask_nibble _ _ _ _).trans rfl
theorem shl (x : Reg) (y : Reg) : Statement (.shl x y) := (Encode.mask_nibble _ _ _ _).trans rfl
theorem sneReg (x : Reg) (y : Reg) : Statement (.sneReg x y) := (Encode.mask_nibble _ _ _ _).trans rfl
theorem ldI (nnn : Addr12) : Statement (.ldI nnn) := (Encode.mask_addr _ _).trans rfl
theorem jpV0 (nnn : Addr12) : Statement (.jpV0 nnn) := (Encode.mask_addr _ _).trans rfl
theorem rnd (x : Reg) (kk : Byte) : Statement (.rnd x kk) := (Encode.mask_xkk _ _ _).trans rfl
theorem drw (x : Reg) (y : Reg) (n : Fin 16) : Statement (.drw x y n) := (Encode.mask_xyn _ _ _ _).trans rfl
theorem skp (x : Reg) : Statement (.skp x) := (Encode.mask_byte _ _ _).trans rfl
theorem sknp (x : Reg) : Statement (.sknp x) := (Encode.mask_byte _ _ _).trans rfl
theorem ldVxDt (x : Reg) : Statement (.ldVxDt x) := (Encode.mask_byte _ _ _).trans rfl
theorem ldVxK (x : Reg) : Statement (.ldVxK x) := (Encode.mask_byte _ _ _).trans rfl
theorem ldDtVx (x : Reg) : Statement (.ldDtVx x) := (Encode.mask_byte _ _ _).trans rfl
theorem ldStVx (x : Reg) : Statement (.ldStVx x) := (Encode.mask_byte _ _ _).trans rfl
theorem addI (x : Reg) : Statement (.addI x) := (Encode.mask_byte _ _ _).trans rfl
theorem ldF (x : Reg) : Statement (.ldF x) := (Encode.mask_byte _ _ _).trans rfl
theorem ldB (x : Reg) : Statement (.ldB x) := (Encode.mask_byte _ _ _).trans rfl
theorem storeRegs (x : Reg) : Statement (.storeRegs x) := (Encode.mask_byte _ _ _).trans rfl
theorem loadRegs (x : Reg) : Statement (.loadRegs x) := (Encode.mask_byte _ _ _).trans rfl
theorem unrecognized (w : Word) : Statement (.unrecognized w) := BitVec.and_zero

end Sys2Proof.Laws.EncodeRow
end

