-- ==== Sys2Proof/Laws/Step.lean ====
section
/-! SUPPORT. Everything a step can do, said once: the inversion lemmas later proofs cite instead of unfolding the step. -/
namespace Sys2Proof.Machine

/-- A step takes the head of the schedule, on the state whose schedule has moved on: it passes over it, or it is its
effect where it is enabled; with nothing scheduled it draws the next round. -/
theorem step_cases {s t : State} (h : step s = .next t) :
    (s.env.schedule = [] ∧ t = s.drawRound) ∨
      ∃ m rest, s.env.schedule = m :: rest ∧
        ((m.enabled (s.withSchedule rest) = false ∧ t = m.passOver (s.withSchedule rest)) ∨
          (m.enabled (s.withSchedule rest) = true ∧ m.effect (s.withSchedule rest) = .next t)) := by
  unfold step nextStep at h
  split at h
  · rename_i m rest hs
    refine .inr ⟨m, rest, hs, ?_⟩
    unfold Move.perform at h
    split at h
    · exact .inr ⟨‹_›, h⟩
    · exact .inl ⟨Bool.eq_false_iff.2 ‹_›, by injection h with h; exact h.symm⟩
  · exact .inl ⟨‹_›, by injection h with h; exact h.symm⟩

/-- A scheduled move that is enabled is the step. -/
theorem step_scheduled {s : State} {m : Move} {rest : List Move} (hs : s.env.schedule = m :: rest)
    (he : m.enabled (s.withSchedule rest) = true) : step s = m.effect (s.withSchedule rest) := by
  unfold step nextStep
  rw [hs]
  simp [Move.perform, he]

/-- A scheduled move that is not enabled is passed over. -/
theorem step_passed {s : State} {m : Move} {rest : List Move} (hs : s.env.schedule = m :: rest)
    (he : m.enabled (s.withSchedule rest) = false) : step s = .next (m.passOver (s.withSchedule rest)) := by
  unfold step nextStep
  rw [hs]
  simp [Move.perform, he]

/-- With nothing scheduled the step draws the next round. -/
theorem step_empty {s : State} (hs : s.env.schedule = []) : step s = .next s.drawRound := by
  unfold step nextStep
  rw [hs]

/-- A move passed over changes nothing, but that the late tick of a halted core may lapse. -/
theorem Move.passOver_cases (m : Move) (s : State) :
    m.passOver s = s ∨ (s.run = .halted ∧ m.passOver s = { s with env := { s.env with lateTick := false } }) := by
  unfold Move.passOver
  split <;> first | exact .inl rfl | (split <;> [exact .inr ⟨‹_›, rfl⟩; exact .inl rfl])

/-- A core that has not halted is left as it is by a move passed over. -/
theorem Move.passOver_of_not_halted {m : Move} {s : State} (h : s.run ≠ .halted) : m.passOver s = s :=
  (Move.passOver_cases m s).resolve_right (fun hc => h hc.1)

/-- A cycle goes on only from what its instruction went on to. -/
theorem runCycle_cases {s t : State} (h : runCycle s = .next t) :
    ∃ u, exec (decodeWord s.nextWord) (s.fetched s.nextWord) = .next u ∧ t = u.haltIfStruck := by
  unfold runCycle haltCheck at h
  split at h
  · rename_i u hu
    exact ⟨u, hu, by injection h with h; exact h.symm⟩
  · cases h
  · cases h

/-- The end of the cycle either leaves the state or halts it. -/
theorem State.haltIfStruck_cases (s : State) :
    (s.strikes ≠ s.cfg.haltStrikes ∧ s.haltIfStruck = s) ∨
      (s.strikes = s.cfg.haltStrikes ∧ s.haltIfStruck = s.halt) := by
  unfold State.haltIfStruck
  split
  · exact .inr ⟨‹_›, rfl⟩
  · exact .inl ⟨‹_›, rfl⟩

/-! ### Conditional updates, as equations -/

/-- `start()` moves an idle core to running and leaves any other run state (R204). -/
theorem State.start_run (s : State) : s.start.run = if s.run = .idle then .running else s.run := by
  unfold State.start
  split <;> rfl

/-- What a cycle leaves of the bookkeeping: after a stop, the cycle's allowance is used up (R206). -/
theorem State.spendCycle_env (s : State) :
    s.spendCycle.env = { s.env with stopCycleLeft := !s.stopReq && s.env.stopCycleLeft } := by
  unfold State.spendCycle
  split <;> simp_all

/-- What a tick leaves of the bookkeeping: the late tick of a halted core, or after a stop the tick's allowance, is
used up (R206, R207). -/
theorem State.spendTick_env (s : State) :
    s.spendTick.env =
      if s.run = .halted then { s.env with lateTick := false }
      else { s.env with stopTickLeft := !s.stopReq && s.env.stopTickLeft } := by
  unfold State.spendTick
  split
  · rfl
  · split <;> simp_all

/-- The end of a key wait where no key is down, or no wait is pending, changes nothing. -/
theorem State.endKeyWait_of_none {s : State} (h : s.nextPressedKey = none) : s.endKeyWait = s := by
  unfold State.endKeyWait
  rw [h]
  split <;> simp_all

/-! ### The instruction cycle -/

/-- The fetched word is 0x0000 exactly when both its bytes are (R81, R196). -/
theorem State.nextWord_eq_zero {s : State} :
    s.nextWord = 0x0000#16 ↔ s.readByte s.pc.toNat = 0 ∧ s.readByte (s.pc.toNat + 1) = 0 := by
  have h := State.fetchWord_toNat s s.pc.toNat
  constructor
  · intro hz
    rw [State.nextWord] at hz
    rw [hz] at h
    change 0 = _ at h
    exact ⟨BitVec.eq_of_toNat_eq (by change _ = 0; omega), BitVec.eq_of_toNat_eq (by change _ = 0; omega)⟩
  · rintro ⟨h1, h2⟩
    rw [h1, h2] at h
    exact BitVec.eq_of_toNat_eq h

/-- A scheduled cycle is enabled exactly when `cycleNext` says so (R208). -/
theorem State.cycleNext_iff {s : State} {rest : List Move} (hs : s.env.schedule = .instructionCycle :: rest) :
    s.cycleNext rest ↔ Move.instructionCycle.enabled (s.withSchedule rest) = true := by
  unfold State.cycleNext Move.enabled
  cases hq : s.stopReq <;> cases hw : s.wait <;> simp [hs, hq, hw]

/-- The state a cycle fetches from: the schedule has moved on, ST is kept for a stale poll, and a pending stop's cycle
is used up. -/
theorem State.cycleStart_eq (s : State) (rest : List Move) :
    (s.withSchedule rest).beginCoreStep.spendCycle =
      { s with env := { s.env with
        schedule := rest, stBefore := s.st, stopCycleLeft := !s.stopReq && s.env.stopCycleLeft } } := by
  unfold State.spendCycle State.beginCoreStep State.withSchedule
  cases hq : s.stopReq <;> simp

/-- The state after a fetch, field by field (R98). -/
theorem State.fetched_eq (s : State) (w : Word) :
    s.fetched w = { s with pc := nextPc s.cfg s.pc, strikes := if w = 0x0000#16 then s.strikes + 1 else 0 } := rfl

/-- A scheduled cycle that R208 enables is the step. -/
theorem step_cycle {s : State} {rest : List Move} (h : s.cycleNext rest) :
    step s = haltCheck (exec (decodeWord s.nextWord)
      ((s.withSchedule rest).beginCoreStep.spendCycle.fetched s.nextWord)) := by
  rw [step_scheduled h.1 ((State.cycleNext_iff h.1).1 h)]
  simp only [Move.effect, runCycle, State.nextWord_spendCycle, State.nextWord_beginCoreStep,
    State.nextWord_withSchedule]

/-! ### Runs of steps -/

/-- A run of one step more takes that step first. -/
theorem run_succ {s t : State} (h : step s = .next t) (n : Nat) :
    Sys2Proof.core.run (n + 1) s = Sys2Proof.core.run n t := by
  have h' : Sys2Proof.core.step s = .next t := h
  simp only [Host.Core.run, h']

/-- Runs follow one another. -/
theorem run_add {a b : Nat} {s u : State} (h : Sys2Proof.core.run a s = .next u) :
    Sys2Proof.core.run (a + b) s = Sys2Proof.core.run b u := by
  induction a generalizing s with
  | zero => cases h; rw [Nat.zero_add]
  | succ a ih =>
    rw [Nat.add_right_comm]
    simp only [Host.Core.run] at h ⊢
    cases hs : Sys2Proof.core.step s with
    | next t =>
      simp only [hs] at h ⊢
      exact ih h
    | fault r => simp [hs] at h
    | refused r => simp [hs] at h

end Sys2Proof.Machine
end

