-- ==== Sys2Proof/Tests/Slice0.lean ====
section
/-! SUPPORT. Tests: encodings written out from spec/30_encoding.md, ill-formed terms, and single steps whose expected
results are the vectors of spec/95_test_vectors.md (each test names its vector). -/
namespace Sys2Proof.Tests
open Sys2Proof Sys2Proof.Machine

/-! ### Well-formedness: the one check, and a term it refuses -/

theorem test_wf_refuses_recognized_word : (Instr.unrecognized 0x00E0#16).wf = false := by decide
theorem test_wf_accepts_unrecognized_word : (Instr.unrecognized 0x5121#16).wf = true := by decide

/-! ### Decoding: a word of every constructor, written out bit by bit from R92 and R95 -/

theorem test_decode_nop : decodeWord 0b0000_0000_0000_0000#16 = .nop := by decide
theorem test_decode_cls : decodeWord 0b0000_0000_1110_0000#16 = .cls := by decide
theorem test_decode_ret : decodeWord 0b0000_0000_1110_1110#16 = .ret := by decide
theorem test_decode_jp : decodeWord 0b0001_0010_0011_0100#16 = .jp 0x234 := by decide
theorem test_decode_call : decodeWord 0b0010_1010_1011_1100#16 = .call 0xABC := by decide
theorem test_decode_seImm : decodeWord 0b0011_0011_0100_0010#16 = .seImm 3 0x42 := by decide
theorem test_decode_sneImm : decodeWord 0b0100_1110_1000_0001#16 = .sneImm 14 0x81 := by decide
theorem test_decode_seReg : decodeWord 0b0101_0001_0010_0000#16 = .seReg 1 2 := by decide
theorem test_decode_ldImm : decodeWord 0b0110_1010_0000_0101#16 = .ldImm 10 0x05 := by decide
theorem test_decode_addImm : decodeWord 0b0111_0000_0000_0011#16 = .addImm 0 0x03 := by decide
theorem test_decode_ldReg : decodeWord 0b1000_1010_1111_0000#16 = .ldReg 10 15 := by decide
theorem test_decode_orReg : decodeWord 0b1000_0001_0010_0001#16 = .orReg 1 2 := by decide
theorem test_decode_andReg : decodeWord 0b1000_0001_0010_0010#16 = .andReg 1 2 := by decide
theorem test_decode_xorReg : decodeWord 0b1000_0001_0010_0011#16 = .xorReg 1 2 := by decide
theorem test_decode_addReg : decodeWord 0b1000_0001_0010_0100#16 = .addReg 1 2 := by decide
theorem test_decode_subReg : decodeWord 0b1000_0001_0010_0101#16 = .subReg 1 2 := by decide
theorem test_decode_shr : decodeWord 0b1000_0001_0010_0110#16 = .shr 1 2 := by decide
theorem test_decode_subn : decodeWord 0b1000_0001_0010_0111#16 = .subn 1 2 := by decide
theorem test_decode_shl : decodeWord 0b1000_0001_0010_1110#16 = .shl 1 2 := by decide
theorem test_decode_sneReg : decodeWord 0b1001_0001_0010_0000#16 = .sneReg 1 2 := by decide
theorem test_decode_ldI : decodeWord 0b1010_0011_0000_0001#16 = .ldI 0x301 := by decide
theorem test_decode_jpV0 : decodeWord 0b1011_0011_0000_0001#16 = .jpV0 0x301 := by decide
theorem test_decode_rnd : decodeWord 0b1100_0011_0000_1111#16 = .rnd 3 0x0F := by decide
theorem test_decode_drw : decodeWord 0b1101_0001_0010_0101#16 = .drw 1 2 5 := by decide
theorem test_decode_skp : decodeWord 0b1110_0111_1001_1110#16 = .skp 7 := by decide
theorem test_decode_sknp : decodeWord 0b1110_0111_1010_0001#16 = .sknp 7 := by decide
theorem test_decode_ldVxDt : decodeWord 0b1111_0101_0000_0111#16 = .ldVxDt 5 := by decide
theorem test_decode_ldVxK : decodeWord 0b1111_0011_0000_1010#16 = .ldVxK 3 := by decide
theorem test_decode_ldDtVx : decodeWord 0b1111_0101_0001_0101#16 = .ldDtVx 5 := by decide
theorem test_decode_ldStVx : decodeWord 0b1111_0001_0001_1000#16 = .ldStVx 1 := by decide
theorem test_decode_addI : decodeWord 0b1111_0010_0001_1110#16 = .addI 2 := by decide
theorem test_decode_ldF : decodeWord 0b1111_0010_0010_1001#16 = .ldF 2 := by decide
theorem test_decode_ldB : decodeWord 0b1111_0011_0011_0011#16 = .ldB 3 := by decide
theorem test_decode_storeRegs : decodeWord 0b1111_0001_0101_0101#16 = .storeRegs 1 := by decide
theorem test_decode_loadRegs : decodeWord 0b1111_0010_0110_0101#16 = .loadRegs 2 := by decide
theorem test_decode_unrecognized : decodeWord 0b1000_0000_0000_1000#16 = .unrecognized 0x8008 := by decide

theorem test_decode_bytes_big_endian : decode [0x12, 0x34, 0x56] = .ok (.jp 0x234, [0x56]) := by decide
theorem test_decode_rejects_one_byte : decode [0x12] = .error .truncated := by decide
theorem test_encode_drw : encode (.drw 1 2 5) = 0xD125#16 := by decide
theorem test_table_word : decodeTableWord 16 0x6A05 = some (.ldImm 10 0x05) := by decide

/-! ### The widths of R8 are those of the types State is built from -/

theorem test_widths :
    Byte = BitVec Config.vWidth ∧ Byte = BitVec Config.timerWidth ∧ Word = BitVec Config.iWidth ∧
      Word = BitVec Config.pcWidth ∧ Word = BitVec Config.stackEntryWidth := ⟨rfl, rfl, rfl, rfl, rfl⟩

/-! ### One step on a small state -/

/-- What holds of the state an outcome goes on to; false of a fault or a refusal. -/
def holds (r : Result) (p : State → Bool) : Bool :=
  match r with
  | .next t => p t
  | .fault _ => false
  | .refused _ => false

/-- The start state of 95_test_vectors.md: reset, running, with some V registers set. -/
def boot (regs : List (Reg × Byte)) : State :=
  regs.foldl (fun s p => s.setReg p.1 p.2) { State.reset with run := .running }

/-- One instruction cycle of the word `w` at PC. -/
def one (s : State) (w : Nat) : Result := step (s.withFetchWord 16 w)

/-- The state with one move scheduled. -/
def scheduled (m : Move) (s : State) : State := s.withSchedule [m]

/-- A running core whose stop is pending, with what is left of its allowance and the next move. -/
def stopping (cycle tick : Bool) (l : List Move) : State :=
  { boot [] with
    stopReq := true, env := { (boot []).env with stopCycleLeft := cycle, stopTickLeft := tick, schedule := l } }

/-- A core of other sizes, every one of them different from its default (R8, D1). -/
def smallCore : RunConfig :=
  { RunConfig.standard with
    memSize := 256, stackDepth := 3, fontBase := 0, progOrigin := 0x60, screenW := 10, screenH := 4, haltStrikes := 2 }

/-- The memory of the default size after construction with one byte written. -/
def memWith (a : Nat) (b : Byte) : Memory := Memory.write [] 4096 a b

/-- E2: the fetch wraps at the top of memory. -/
theorem test_fetch_wraps :
    holds (step (scheduled .instructionCycle { boot [] with pc := 0xFFF, mem := (memWith 0xFFF 0x61).write 4096 0 0x23 }))
      (fun t => t.reg 1 == 0x23 && t.pc == 0x001) = true := by decide

/-- E3: a PC above MEM_SIZE is reduced by the fetch. -/
theorem test_fetch_reduces :
    holds (one { boot [] with pc := 0x10FE } 0x6012) (fun t => t.reg 0 == 0x12 && t.pc == 0x100) = true := by decide

/-- B1: an odd jump target. -/
theorem test_jp : holds (one (boot []) 0x1203) (fun t => t.pc == 0x203) = true := by decide

/-- R8, R45: three slots, the push wrapping from slot 2 to slot 0. -/
theorem test_call_sizes :
    holds (one { State.fresh smallCore with run := .running } 0x2044)
      (fun t => t.sp == 0 && t.stack == [.pushed 0x62, .unwritten, .unwritten]) = true := by decide

/-- B2: the first push writes slot 0. -/
theorem test_call :
    holds (one (boot []) 0x2201) (fun t => t.sp == 0 && t.stack[0]? == some (.pushed 0x202) && t.pc == 0x201) = true := by decide

/-- B3: return. -/
theorem test_ret :
    holds (one { boot [] with sp := 0, stack := (boot []).stack.set 0 (.pushed 0x206) } 0x00EE)
      (fun t => t.pc == 0x206 && t.sp == 63) = true := by decide

/-- B4: a return with no call pops a draw, moves SP down and reports nothing. -/
theorem test_ret_underflow :
    step ((boot []).withFetchWord 16 0x00EE) =
      .next { boot [] with
        pc := Config.unwrittenSlot 0, sp := 62, draws := 1, mem := (memWith 0x200 0).write 4096 0x201 0xEE } := by rfl

/-- B6, B7. -/
theorem test_seImm_taken : holds (one (boot [(0, 0x42)]) 0x3042) (fun t => t.pc == 0x204) = true := by decide
theorem test_seImm_not : holds (one (boot [(0, 0x41)]) 0x3042) (fun t => t.pc == 0x202) = true := by decide

/-- B8, B9. -/
theorem test_sneImm_not : holds (one (boot [(0, 0x42)]) 0x4042) (fun t => t.pc == 0x202) = true := by decide
theorem test_sneImm_taken : holds (one (boot [(0, 0x41)]) 0x4042) (fun t => t.pc == 0x204) = true := by decide

/-- B10, B11. -/
theorem test_seReg_taken : holds (one (boot [(1, 3), (2, 3)]) 0x5120) (fun t => t.pc == 0x204) = true := by decide
theorem test_seReg_not : holds (one (boot [(1, 3), (2, 4)]) 0x5120) (fun t => t.pc == 0x202) = true := by decide

/-- B12, B13. -/
theorem test_sneReg_not : holds (one (boot [(1, 3), (2, 3)]) 0x9120) (fun t => t.pc == 0x202) = true := by decide
theorem test_sneReg_taken : holds (one (boot [(1, 3), (2, 4)]) 0x9120) (fun t => t.pc == 0x204) = true := by decide

/-- E4: a taken skip wraps. -/
theorem test_skip_wraps : holds (one { boot [] with pc := 0xFFC } 0x3000) (fun t => t.pc == 0x000) = true := by decide

/-- B15, B16. -/
theorem test_jpV0 : holds (one (boot [(0, 0x10)]) 0xB300) (fun t => t.pc == 0x310) = true := by decide
theorem test_jpV0_beyond : holds (one (boot [(0, 0xFF)]) 0xBFFF) (fun t => t.pc == 0x10FE) = true := by decide

/-- B17: the no-op counts a strike. -/
theorem test_nop : holds (one (boot []) 0x0000) (fun t => t.pc == 0x202 && t.strikes == 1) = true := by decide

/-- R8, R98: PC wraps at a MEM_SIZE of 256, and the second strike halts where HALT_STRIKES is 2. -/
theorem test_nop_sizes :
    holds (one { State.fresh smallCore with run := .running, strikes := 1, pc := 0xFF } 0x0000)
      (fun t => t.pc == 0x01 && t.run == .halted && t.diag == [.halt 0xFF]) = true := by decide

/-- A1, A2. -/
theorem test_ldImm : holds (one (boot []) 0x6A05) (fun t => t.reg 10 == 0x05) = true := by decide
theorem test_addImm :
    holds (one (boot [(0, 0xFF), (15, 0x55)]) 0x7001) (fun t => t.reg 0 == 0 && t.reg 15 == 0x55) = true := by decide

/-- A4 to A7. -/
theorem test_ldReg : holds (one (boot [(1, 0x33)]) 0x8010) (fun t => t.reg 0 == 0x33) = true := by decide
theorem test_orReg :
    holds (one (boot [(0, 0x0F), (1, 0xF0), (15, 0xAA)]) 0x8011)
      (fun t => t.reg 0 == 0xFF && t.reg 15 == 0xAA) = true := by decide
theorem test_andReg : holds (one (boot [(0, 0x3C), (1, 0x0F)]) 0x8012) (fun t => t.reg 0 == 0x0C) = true := by decide
theorem test_xorReg : holds (one (boot [(0, 0x3C), (1, 0x0F)]) 0x8013) (fun t => t.reg 0 == 0x33) = true := by decide

/-- S7, A11. -/
theorem test_addReg :
    holds (one (boot [(0, 200), (1, 100)]) 0x8014) (fun t => t.reg 0 == 44 && t.reg 15 == 1) = true := by decide
theorem test_addReg_into_vf : holds (one (boot [(15, 0xFF), (1, 1)]) 0x8F14) (fun t => t.reg 15 == 1) = true := by decide

/-- S9, A14. -/
theorem test_subReg :
    holds (one (boot [(0, 5), (1, 10)]) 0x8015) (fun t => t.reg 0 == 251 && t.reg 15 == 0) = true := by decide
theorem test_subReg_into_vf : holds (one (boot [(15, 3), (1, 5)]) 0x8F15) (fun t => t.reg 15 == 0) = true := by decide

/-- A16, A17. -/
theorem test_shr :
    holds (one (boot [(0, 4), (1, 0xFF)]) 0x8016) (fun t => t.reg 0 == 2 && t.reg 15 == 0) = true := by decide
theorem test_shr_vf : holds (one (boot [(15, 0xFF)]) 0x8F06) (fun t => t.reg 15 == 0) = true := by decide

/-- A18, A20. -/
theorem test_subn :
    holds (one (boot [(0, 10), (1, 5)]) 0x8017) (fun t => t.reg 0 == 0xFB && t.reg 15 == 0) = true := by decide
theorem test_subn_equal :
    holds (one (boot [(0, 0x42), (1, 0x42)]) 0x8017) (fun t => t.reg 0 == 0 && t.reg 15 == 1) = true := by decide

/-- A21, A24. -/
theorem test_shl : holds (one (boot [(0, 0x81)]) 0x801E) (fun t => t.reg 0 == 2 && t.reg 15 == 1) = true := by decide
theorem test_shl_vf : holds (one (boot [(15, 0x80)]) 0x8F0E) (fun t => t.reg 15 == 2) = true := by decide

/-- A28: KK = 0xFF gives the draw itself. -/
theorem test_rnd : exec (.rnd 0 0xFF) (boot []) =
    .next { (boot []).setReg 0 (Config.randomByte 0 &&& 0xFF) with draws := 1 } := by rfl

/-- M1 to M4. -/
theorem test_ldI : holds (one (boot []) 0xA123) (fun t => t.i == 0x123) = true := by decide
theorem test_addI : holds (one { boot [(0, 1)] with i := 0x0FFF } 0xF01E) (fun t => t.i == 0x1000) = true := by decide
theorem test_addI_wraps : holds (one { boot [(0, 1)] with i := 0xFFFF } 0xF01E) (fun t => t.i == 0) = true := by decide
theorem test_ldF : holds (one (boot [(0, 0x0A)]) 0xF029) (fun t => t.i == 0x082) = true := by decide
theorem test_ldF_no_mask : holds (one (boot [(0, 0xFF)]) 0xF029) (fun t => t.i == 0x54B) = true := by decide

/-- M6: the three addresses wrap one by one. -/
theorem test_ldB :
    holds (one { boot [(0, 123)] with i := 0xFFF } 0xF033)
      (fun t => t.readByte 0xFFF == 1 && t.readByte 0 == 2 && t.readByte 1 == 3 && t.i == 0xFFF) = true := by decide

/-- M8. -/
theorem test_storeRegs :
    holds (one { boot [(0, 1), (1, 2), (2, 3)] with i := 0xFFE } 0xF255)
      (fun t => t.readByte 0xFFE == 1 && t.readByte 0xFFF == 2 && t.readByte 0 == 3 && t.i == 0xFFE) = true := by decide

/-- M9 on its last register, and M10. -/
theorem test_loadRegs_last :
    holds (one { boot [] with i := 0x300, mem := memWith 0x30F 0xFF } 0xFF65)
      (fun t => t.reg 15 == 0xFF && t.i == 0x300) = true := by decide
theorem test_loadRegs_font : holds (one { boot [] with i := 0x050 } 0xF065) (fun t => t.reg 0 == 0xF0) = true := by decide

/-- D2: clipped at the right edge; R8, R161: the same at the corner of a screen of 10 by 4. -/
theorem test_drw_clips :
    holds (one { boot [(0, 60)] with i := 0x300, mem := memWith 0x300 0xFF } 0xD011)
      (fun t => t.fb.pixel 60 0 && t.fb.pixel 63 0 && !t.fb.pixel 0 0 && !t.fb.pixel 59 0 && t.reg 15 == 0) = true ∧
    holds (one { (State.fresh smallCore).setReg 0 19 with
        run := .running, i := 0xF0, mem := Memory.write [] 256 0xF0 0xC0 } 0xD001)
      (fun t => t.fb.pixel 9 3 && !t.fb.pixel 0 3 && t.reg 15 == 0) = true := by decide

/-- D7: the two collision modes differ. -/
def collisionState (m : CollisionMode) : State :=
  { boot [] with
    i := 0x300, mem := memWith 0x300 0xC0, fb := (Frame.blank RunConfig.standard).toggle 0 0
    cfg := { RunConfig.standard with collisionMode := m } }

theorem test_drw_modes :
    holds (one (collisionState .any) 0xD011)
      (fun t => !t.fb.pixel 0 0 && t.fb.pixel 1 0 && t.reg 15 == 1) = true ∧
    holds (one (collisionState .last) 0xD011)
      (fun t => !t.fb.pixel 0 0 && t.fb.pixel 1 0 && t.reg 15 == 0) = true := by decide

/-- D10: the clear keeps VF. -/
theorem test_cls :
    holds (one { boot [(15, 7)] with fb := (Frame.blank RunConfig.standard).toggle 9 9 } 0x00E0)
      (fun t => t.fb == Frame.blank RunConfig.standard && t.reg 15 == 7) = true := by decide

/-- K1, K2: only the low nibble selects the key. -/
theorem test_skp : holds (one ((boot [(0, 0x13)]).setKey 3) 0xE09E) (fun t => t.pc == 0x204) = true := by decide
theorem test_skp_up : holds (one (boot [(0, 0x07)]) 0xE09E) (fun t => t.pc == 0x202) = true := by decide

/-- K3, K4. -/
theorem test_sknp : holds (one (boot [(0, 0x07)]) 0xE0A1) (fun t => t.pc == 0x204) = true := by decide
theorem test_sknp_down : holds (one ((boot [(0, 0x07)]).setKey 7) 0xE0A1) (fun t => t.pc == 0x202) = true := by decide

/-- K5, K6: the lowest key down at once, or the hold. -/
theorem test_ldVxK :
    holds (one (((boot []).setKey 5).setKey 2) 0xF30A) (fun t => t.reg 3 == 2 && t.wait == none) = true := by decide
theorem test_ldVxK_waits :
    holds (one (boot []) 0xF30A) (fun t => t.wait == some 3 && t.pc == 0x202) = true := by decide

/-- K7: the hold ends on a key, which stays down. -/
theorem test_keyWaitEnd :
    holds (step (scheduled .keyWaitEnd ({ boot [] with wait := some 3 }.setKey 0xC)))
      (fun t => t.reg 3 == 0x0C && t.wait == none && t.keyDown 0xC) = true := by decide

/-- K8 to K12. -/
theorem test_ldVxDt : holds (one { boot [] with dt := 0x1E } 0xF507) (fun t => t.reg 5 == 0x1E) = true := by decide
theorem test_ldDtVx : holds (one (boot [(0, 0x3C)]) 0xF015) (fun t => t.dt == 0x3C) = true := by decide
theorem test_ldStVx : holds (one (boot [(1, 2)]) 0xF118) (fun t => t.st == 2 && soundActive t.st) = true := by decide
theorem test_timerTick :
    holds (step ({ boot [] with dt := 5 }.withSchedule [.timerTick])) (fun t => t.dt == 4 && t.st == 0) = true := by decide

/-- U1, U4: reported, and otherwise a no-op. -/
theorem test_unrecognized :
    holds (one (boot []) 0x8008)
      (fun t => t.pc == 0x202 && t.diag == [.unrecognized 0x8008 0x200] && t.strikes == 0) = true := by decide
theorem test_unrecognized_0nnn :
    holds (one (boot []) 0x0123)
      (fun t => t.pc == 0x202 && t.diag == [.unrecognized 0x0123 0x200] && t.sp == 63) = true := by decide

/-- S13, its last cycle: the fifth strike halts. -/
theorem test_halt :
    holds (step (scheduled .instructionCycle { boot [] with pc := 0x208, strikes := 4 }))
      (fun t => t.run == .halted && t.pc == 0x20A && t.strikes == 5 && t.diag == [.halt 0x208]) = true := by decide

/-- R1, R3, R6. -/
theorem test_start : holds (step (State.reset.withSchedule [.start])) (fun t => t.run == .running) = true := by decide
theorem test_stop_idle : holds (step (State.reset.withSchedule [.stop])) (fun t => t.run == .halted) = true := by decide
theorem test_start_halted :
    holds (step ({ boot [] with run := .halted }.withSchedule [.start])) (fun t => t.run == .halted) = true := by decide

/-- R5: a stop is not seen during a key wait. -/
theorem test_stop_waits :
    holds (step ({ boot [] with wait := some 0, stopReq := true }.withSchedule [.stopSeen]))
      (fun t => t.run == .running) = true := by decide

/-! ### Launch (R230 to R235) -/

theorem test_construct_empty_is_reset : Memory.reset RunConfig.standard = State.reset.mem := by decide +kernel
theorem test_construct_moved_font :
    holds (construct { RunConfig.standard with fontBase := 0x100 } [0x12, 0x34])
      (fun s => s.readByte 0x50 == 0 && s.readByte 0x132 == 0xF0 && s.readByte 0x200 == 0x12) = true := by decide +kernel

theorem test_launch_unreadable : launch RunConfig.standard none = .fault .romUnreadable := by rfl

/-! ### Witnesses: for every statement with hypotheses, terms that meet them all, clause by clause -/

theorem witness_DecodeEncodeRoundTrip :
    (Instr.drw 15 15 15).wf = true ∧ (Instr.unrecognized 0xFFFF#16).wf = true := by decide

theorem witness_DecoderAgreesWithMaskTable :
    Decode.recognized 0x0000#16 = true ∧ Decode.recognized 0x0001#16 = false ∧
      Decode.recognized 0xFF65#16 = true ∧ Decode.recognized 0xFFFF#16 = false := by decide

/-- Every statement with the premise that the parameters are legal: the defaults, and a core of other sizes. -/
theorem witness_legal : RunConfig.standard.legal = true ∧ smallCore.legal = true := by decide

theorem witness_NopChangesNothing :
    (boot []).cfg.legal = true ∧ (boot []).nextWord = 0x0000#16 ∧ (boot []).strikes + 1 ≠ (boot []).cfg.haltStrikes ∧
      ({ boot [] with strikes := 3 } : State).strikes + 1 ≠ (boot []).cfg.haltStrikes := by decide

theorem witness_RetPopsReturnAddress :
    ((boot []).push 0x206).stack[((boot []).push 0x206).sp]? = some (.pushed 0x206) ∧
      ∀ a, (boot []).stack[(boot []).sp]? ≠ some (.pushed a) :=
  ⟨by decide, fun a h => by cases h⟩

/-- The last slot, from which a push wraps. -/
theorem witness_CallPushesAndJumps :
    (boot []).stack.length = (boot []).cfg.stackDepth ∧ (boot []).sp < (boot []).cfg.stackDepth ∧
      (boot []).sp + 1 = (boot []).cfg.stackDepth ∧ (5 : Nat) ≠ ((boot []).sp + 1) % (boot []).cfg.stackDepth := by
  decide

theorem witness_ShiftsMoveOneBit :
    ((14 : Reg) ≠ vf) ∧ ((15 : Reg) = vf) ∧ ((0 : Reg) ≠ 14 ∧ (0 : Reg) ≠ vf) := by decide

/-- BitwiseOperations, RandomByteIsMasked: the top bit. -/
theorem witness_bit : (7 : Nat) < 8 := by decide

/-- An address no digit goes to, with the digits' addresses wrapped. -/
theorem witness_DecimalDigitsAreStored : ∀ j < 3, 2 % 4096 ≠ (0xFFF + j) % 4096 := by decide

theorem witness_RegistersAreStored :
    ((15 : Reg) ≤ 15 ∧ (0 : Reg) ≤ 0) ∧ ∀ r : Reg, r ≤ 15 → 0xFFF % 4096 ≠ (0x1000 + r.val) % 4096 := by decide

/-- A frame of the screen's form, the last byte of the tallest sprite, and the last pixel. -/
theorem witness_DrawXorsSprite :
    (boot []).fb.wf (boot []).cfg ∧ (14 : Nat) < (15 : Fin 16).val ∧ 63 < (boot []).cfg.screenW ∧
      31 < (boot []).cfg.screenH := by decide

/-- A sprite of one pixel in the bottom right corner of a blank screen of ten columns and four rows. -/
theorem witness_SecondDrawRestoresScreen :
    (Frame.blank smallCore).wf smallCore ∧ (Frame.blank smallCore).pixel 9 3 = false ∧
      ((Frame.blank smallCore).draw smallCore [0x80#8] 9 3).fb.pixel 9 3 = true ∧
      (toggledPixels smallCore [0x80#8] ((9#8).toNat % smallCore.screenW) ((3#8).toNat % smallCore.screenH)).getLast? =
        some (9, 3) := by decide

theorem witness_KeyWaitTakesLowestKey :
    (((boot []).setKey 15).setKey 2).keys[(2 : Key)] = true ∧
      (∀ j : Key, j < 2 → (((boot []).setKey 15).setKey 2).keys[j] = false) ∧
      ∀ k : Key, (boot []).keys[k] = false := by decide

theorem witness_RegistersChangeOnlyAsListed :
    exec (.loadRegs 14) (boot []) = .next { boot [] with v := (boot []).loadBlock 14 } ∧
      writesReg (.loadRegs 14) vf = false := ⟨rfl, by decide⟩

/-- A skip, an instruction of no listed kind, and one of each kind the clauses exclude. -/
theorem witness_PcIndexTimersChangeOnlyAsListed :
    (∃ t, exec (.skp 0) (boot []) = .next t) ∧ (boot []).cfg.legal = true ∧ isSkip (.skp 0) = true ∧
      (∃ t, exec .cls (boot []) = .next t) ∧ isSkip .cls = false ∧ isTransfer .cls = false ∧ isTransfer .ret = true ∧
      (∀ nnn, Instr.cls ≠ .ldI nnn) ∧ (∀ x, Instr.cls ≠ .addI x) ∧ (∀ x, Instr.cls ≠ .ldF x) ∧
      (∀ x, Instr.ldStVx 0 ≠ .ldDtVx x) ∧ (∀ x, Instr.ldDtVx 0 ≠ .ldStVx x) :=
  ⟨⟨_, rfl⟩, by decide, rfl, ⟨_, rfl⟩, rfl, rfl, rfl, nofun, nofun, nofun, nofun, nofun⟩

theorem witness_StackMemoryChangeOnlyAsListed :
    (∃ t, exec (.ldB 0) (boot []) = .next t) ∧ (∀ nnn, Instr.ret ≠ .call nnn) ∧ Instr.ldB 0 ≠ .ret ∧
      ∀ j < storedBytes (.ldB 0), 3 % 4096 ≠ ((boot []).i.toNat + j) % 4096 :=
  ⟨⟨_, rfl⟩, nofun, nofun, by decide⟩

theorem witness_DevicesControlChangeOnlyAsListed :
    (∃ t, exec .nop (boot []) = .next t) ∧ Instr.nop ≠ .cls ∧ (∀ x y n, Instr.nop ≠ .drw x y n) ∧
      (∀ x, Instr.nop ≠ .ldVxK x) ∧ (∀ w, Instr.nop ≠ .unrecognized w) ∧ Instr.nop ≠ .ret ∧
      ∀ x kk, Instr.nop ≠ .rnd x kk :=
  ⟨⟨_, rfl⟩, nofun, nofun, nofun, nofun, nofun, nofun⟩

/-- A cycle that is next, with no stop pending and with one that allows it; one that is not enabled; none scheduled. -/
theorem witness_StepRunsDecodedInstruction :
    (boot []).cfg.legal = true ∧ (scheduled .instructionCycle (boot [])).cycleNext [] ∧
      (stopping true true [.instructionCycle]).cycleNext [] ∧
      decode [(boot []).readByte (boot []).pc.toNat, (boot []).readByte ((boot []).pc.toNat + 1)] = .ok (.nop, []) ∧
      ¬ (stopping false true [.instructionCycle]).cycleNext [] ∧ (boot []).env.schedule = [] :=
  ⟨by decide, ⟨rfl, rfl, rfl, nofun⟩, ⟨rfl, rfl, rfl, fun _ => rfl⟩, by decide,
    fun h => Bool.noConfusion (h.2.2.2 rfl), rfl⟩

theorem witness_CycleHaltsAtHaltStrikes :
    (boot []).cfg.legal = true ∧ ({ boot [] with strikes := 4 } : State).strikes ≠ (boot []).cfg.haltStrikes ∧
      ({ boot [] with strikes := 5 } : State).strikes = (boot []).cfg.haltStrikes := by decide

/-- StepKeepsInvariant, and every statement whose one hypothesis is `step s = .next t`. -/
theorem witness_StepKeepsInvariant : (boot []).Inv ∧ ∃ t, step (boot []) = .next t :=
  ⟨by constructor <;> decide, ⟨_, rfl⟩⟩

theorem witness_ResetMeetsInvariant : ∃ s, construct smallCore [0x12#8] = .next s := ⟨_, rfl⟩

theorem witness_StepKeepsMemoryCanonical :
    (boot []).cfg.legal = true ∧ (memWith 0xFFF 7).wf 4096 ∧
      (∃ t, step (scheduled .instructionCycle { boot [] with mem := memWith 0xFFF 7 }) = .next t) ∧
      Memory.wf 4096 [] ∧ ∀ a, Memory.read [] 4096 a = Memory.read [] 4096 a :=
  ⟨by decide, by decide, ⟨_, rfl⟩, by decide, fun _ => rfl⟩

/-- A step that raises DT and one that reports: cycles that R208 enables, on FX15 and on an unrecognized word. -/
theorem witness_StepReportsAtMostOneEvent :
    (boot []).cfg.legal = true ∧ (∃ t, one (boot []) 0xF015 = .next t) ∧ ∃ t, one (boot []) 0x8008 = .next t :=
  ⟨by decide, ⟨_, rfl⟩, ⟨_, rfl⟩⟩

theorem witness_MemoryReadAfterWriteAndWrap : 0xFFF % 4096 ≠ 0x1000 % 4096 := by decide

/-- A halted core whose late tick is scheduled, and one with no late tick left. -/
theorem witness_HaltedIsTerminal :
    ∃ s u : State, s.run = .halted ∧ s.env.lateTick = true ∧ (∃ t, step s = .next t) ∧
      u.run = .halted ∧ u.env.lateTick = false ∧ ∃ t, step u = .next t :=
  ⟨scheduled .timerTick (boot []).halt, { boot [] with run := .halted }, by decide, by decide, ⟨_, rfl⟩, by decide,
    by decide, ⟨_, rfl⟩⟩

/-- An idle core with a cycle, a start and a stop scheduled. -/
theorem witness_IdleCoreRunsNothing :
    State.reset.run = .idle ∧ (∃ t, step (scheduled .instructionCycle State.reset) = .next t) ∧
      (∃ t, step (scheduled .start State.reset) = .next t) ∧ ∃ t, step (scheduled .stop State.reset) = .next t :=
  ⟨rfl, ⟨_, rfl⟩, ⟨_, rfl⟩, ⟨_, rfl⟩⟩

/-- A core waiting for a key: with none down, and with one down. -/
def waiting : State := { boot [] with wait := some 15 }

theorem witness_KeyWaitHoldsTheCore :
    waiting.run = .running ∧ waiting.wait = some 15 ∧ (∃ t, step (scheduled .keyWaitEnd waiting) = .next t) ∧
      (∃ t, step (scheduled .keyWaitEnd (waiting.setKey 15)) = .next t) ∧
      ({ waiting with stopReq := true } : State).stopReq = true :=
  ⟨rfl, rfl, ⟨_, rfl⟩, ⟨_, rfl⟩, rfl⟩

theorem witness_KeysChangeOnlyByInput :
    (15 : Key).val = (0xFF#8).toNat % 16 ∧
      (scheduled (.keySet 0xFF) (boot [])).env.schedule = .keySet 0xFF :: [] ∧
      (scheduled (.keyUnset 0xFF) (boot [])).env.schedule = .keyUnset 0xFF :: [] ∧
      (∀ k rest, (boot []).env.schedule ≠ .keySet k :: rest) ∧ (∀ k rest, (boot []).env.schedule ≠ .keyUnset k :: rest) ∧
      ∃ t, step (boot []) = .next t :=
  ⟨rfl, rfl, rfl, nofun, nofun, ⟨_, rfl⟩⟩

theorem witness_ConsecutiveZeroWordsHalt :
    let s := (boot []).withSchedule (List.replicate 5 .instructionCycle ++ [.timerTick])
    s.cfg.legal = true ∧ s.run = .running ∧ s.wait = none ∧ s.stopReq = false ∧
      s.env.schedule = List.replicate s.cfg.haltStrikes .instructionCycle ++ [.timerTick] ∧ s.strikes = 0 ∧
      ∀ k < 2 * s.cfg.haltStrikes, s.readByte (s.pc.toNat + k) = 0 := by decide

theorem witness_CoreStepsKeepComing : isCoreStep .timerTick = true ∧ isCoreStep .stopSeen = true := by decide

theorem witness_StopAllowsOneCycleOneTick :
    (∃ t, step (stopping true true [.instructionCycle]) = .next t) ∧
      (∃ t, step (stopping true true [.timerTick]) = .next t) ∧
      (∃ t, step (stopping false false [.instructionCycle]) = .next t) ∧
      (∃ t, step (stopping false false [.stopSeen]) = .next t) ∧ (∃ t, step (stopping true true [.stopSeen]) = .next t) ∧
      (stopping false false [.stopSeen]).run = .running ∧ (stopping false false [.stopSeen]).wait = none ∧
      (stopping false false [.stopSeen]).stopReq = true :=
  ⟨⟨_, rfl⟩, ⟨_, rfl⟩, ⟨_, rfl⟩, ⟨_, rfl⟩, ⟨_, rfl⟩, rfl, rfl, rfl⟩

theorem witness_TimerTickLowersTimers :
    (scheduled .timerTick (boot [])).env.schedule = .timerTick :: [] ∧
      ((boot []).run = .running ∧ (boot []).wait = none ∧ (boot []).stopReq = false) ∧
      ((stopping true true [.timerTick]).stopReq = true ∧ (stopping true true [.timerTick]).env.stopTickLeft = true) ∧
      ((boot []).halt.run = .halted ∧ (boot []).halt.env.lateTick = true) ∧
      ((scheduled .timerTick waiting).run = .running ∧ (scheduled .timerTick waiting).wait ≠ none) ∧
      (stopping true false [.timerTick]).env.stopTickLeft = false ∧
      (scheduled .timerTick State.reset).run = .idle ∧
      ((scheduled .timerTick { boot [] with run := .halted }).run = .halted ∧
        (scheduled .timerTick { boot [] with run := .halted }).env.lateTick = false) := by decide

/-- A tick with a stop pending, and the late tick: R206, R207. -/
theorem test_timerTick_stop :
    holds (step { stopping true true [.timerTick] with dt := 5 }) (fun t => t.dt == 4 && !t.env.stopTickLeft) = true ∧
      holds (step { stopping true false [.timerTick] with dt := 5 }) (fun t => t.dt == 5) = true := by decide
theorem test_timerTick_late :
    holds (step (scheduled .timerTick { (boot []).halt with dt := 5 })) (fun t => t.dt == 4 && !t.env.lateTick) = true ∧
      holds (step (scheduled .stopSeen { (boot []).halt with dt := 5 })) (fun t => t.dt == 5 && !t.env.lateTick) = true := by
  decide

theorem witness_KeyWaitEndStoresKey :
    (scheduled .keyWaitEnd (waiting.setKey 15)).env.schedule = .keyWaitEnd :: [] ∧
      (waiting.setKey 15).run = .running ∧ (waiting.setKey 15).wait = some 15 ∧
      (waiting.setKey 15).keys[(15 : Key)] = true ∧ ∀ j : Key, j < 15 → (waiting.setKey 15).keys[j] = false := by decide

theorem witness_RunStateTransitions :
    (scheduled .start State.reset).env.schedule = .start :: [] ∧ (scheduled .stop State.reset).env.schedule = .stop :: [] ∧
      (stopping true true [.stopSeen]).env.schedule = .stopSeen :: [] ∧ (stopping true true [.stopSeen]).run = .running ∧
      (stopping true true [.stopSeen]).wait = none ∧ (stopping true true [.stopSeen]).stopReq = true ∧
      (scheduled .stopSeen (boot [])).stopReq = false ∧ (scheduled .stopSeen waiting).wait ≠ none := by decide

theorem witness_HostReadsSeeFrameAndSound :
    (scheduled .snapshot (boot [])).env.schedule = .snapshot :: [] ∧
      (scheduled (.soundPoll false) (boot [])).env.schedule = .soundPoll false :: [] ∧
      (scheduled (.soundPoll true) (boot [])).env.schedule = .soundPoll true :: [] ∧
      (isCoreStep .stopSeen = true ∧ Move.stopSeen.enabled (stopping true true [.stopSeen]) = true) ∧
      (boot []).env.schedule = [] := by decide

/-- The byte of VF stored at 0xFFF + 15, and the units stored at 0xFFF + 2, as the high byte of a fetch there and the
low byte of one before it. -/
theorem witness_FetchSeesStoredBytes :
    (∃ t, exec (.storeRegs 15) { boot [] with i := 0xFFF } = .next t) ∧ (15 : Reg) ≤ 15 ∧
      0x00E % 4096 = ((0xFFF#16).toNat + (15 : Reg).val) % 4096 ∧
      (0x00D + 1) % 4096 = ((0xFFF#16).toNat + (15 : Reg).val) % 4096 ∧
      (∃ t, exec (.ldB 0) { boot [(0, 234)] with i := 0xFFF } = .next t) ∧
      [(234#8).toNat / 100, (234#8).toNat / 10 % 10, (234#8).toNat % 10][2]? = some 4 ∧
      0x001 % 4096 = ((0xFFF#16).toNat + 2) % 4096 ∧ (0x000 + 1) % 4096 = ((0xFFF#16).toNat + 2) % 4096 :=
  ⟨⟨_, rfl⟩, by decide, by decide, by decide, ⟨_, rfl⟩, by decide, by decide, by decide⟩

theorem witness_PopsReverseLatestPushes :
    (boot []).stack.length = (boot []).cfg.stackDepth ∧ (boot []).sp < (boot []).cfg.stackDepth ∧
      64 ≤ (boot []).cfg.stackDepth ∧ 64 ≤ (List.replicate 65 (0x206#16)).length := by decide

theorem witness_ConstructionLeavesResetState :
    RunConfig.standard.legal = true ∧ ({ RunConfig.standard with fontBase := 4016 } : RunConfig).legal = true ∧
      smallCore.legal = true ∧ (List.replicate 3584 (0xFF#8)).length ≤ 4096 - 0x200 :=
  ⟨by decide, by decide, by decide, by rw [List.length_replicate]⟩

theorem witness_LaunchStartsOrStops :
    ({ RunConfig.standard with memSize := 4095 } : RunConfig).legal = false ∧
      RunConfig.standard.legal = true ∧ 4096 - 0x200 < (List.replicate 3585 (0xFF#8)).length ∧
      ∃ s, construct RunConfig.standard [0x12#8] = .next s :=
  ⟨by decide, by decide, by rw [List.length_replicate]; decide, ⟨_, rfl⟩⟩

end Sys2Proof.Tests
end

section
/-! PROOFS. Construction and launch (spec/00_scope.md R10, spec/70_reset_and_hazards.md R230 to R235): what memory
reads after `Memory.reset`, when each function stops, and O60. -/
namespace Sys2Proof.Machine

/-! ### Memory after `Memory.reset()` (R79) -/

theorem fontTable_length (f : Font) : (fontTable f).length = 80 := by
  simp [fontTable, Config.fontGlyphs, Config.glyphBytes]

theorem Memory.initial_of_not_font {a : Nat}
    (h : ¬(Config.fontBase ≤ a ∧ a < Config.fontBase + 80)) : Memory.initial a = 0 :=
  if_neg h

/-- The default font, byte by byte, is what its addresses read as when memory does not list them (log 10). -/
theorem Memory.initial_font : ∀ j : Fin 80,
    (fontTable Config.font)[j.val]? = some (Memory.initial (Config.fontBase + j.val)) := by decide

/-- Zeroing the default font's addresses leaves a memory that reads 0x00 everywhere. -/
theorem Memory.read_zeroed {n : Nat} (hn : 80 ≤ n) (a : Nat) :
    (Memory.writeBytes [] n Config.fontBase (List.replicate 80 0)).read n a = 0 := by
  by_cases h : ∃ j < 80, a % n = (Config.fontBase + j) % n
  · obtain ⟨j, hj, ha⟩ := h
    rw [← Memory.read_mod, ha, Memory.read_mod,
      Memory.read_writeBytes _ _ _ _ (by simpa using hn) (by simpa using hj)]
    exact List.getElem_replicate _
  · rw [Memory.read_writeBytes_of_ne _ _ _ _ fun j hj ha => h ⟨j, by simpa using hj, ha⟩]
    refine Memory.initial_of_not_font fun hf => h ⟨a % n - Config.fontBase, by omega, ?_⟩
    rw [Nat.add_sub_cancel' hf.1, Nat.mod_mod]

/-- R79: after a reset the font's bytes stand at `FONT_BASE`. -/
theorem Memory.read_reset_font {c : RunConfig} (h : c.legal = true) {j : Nat} (hj : j < (fontTable c.font).length) :
    (Memory.reset c).read c.memSize (c.fontBase + j) = (fontTable c.font)[j] := by
  have hs := RunConfig.legal_memSize h
  exact Memory.read_writeBytes _ _ _ _ (by rw [fontTable_length]; exact hs.2.1) hj

/-- R79: after a reset every byte outside the font is 0x00. -/
theorem Memory.read_reset_of_not_font {c : RunConfig} (h : c.legal = true) {a : Nat}
    (ha : ¬(c.fontBase ≤ a % c.memSize ∧ a % c.memSize < c.fontBase + 80)) :
    (Memory.reset c).read c.memSize a = 0 := by
  obtain ⟨-, hn, -, hfont, -⟩ := RunConfig.legal_memSize h
  refine (Memory.read_writeBytes_of_ne _ _ _ _ fun j hj haj => ha ?_).trans (Memory.read_zeroed hn a)
  rw [fontTable_length] at hj
  rw [Nat.mod_eq_of_lt (a := c.fontBase + j) (by omega)] at haj
  exact ⟨by omega, by omega⟩

/-- With the default parameters a reset lists nothing: every byte is what its address reads as when unlisted. -/
theorem Memory.reset_standard : Memory.reset RunConfig.standard = [] := by
  have hl : RunConfig.standard.legal = true := by decide
  refine Memory.ext_of_read (Memory.reset_wf _ (by decide)) (Memory.nil_wf _) fun a => ?_
  change _ = Memory.initial (a % RunConfig.standard.memSize)
  by_cases hf : Config.fontBase ≤ a % RunConfig.standard.memSize ∧
      a % RunConfig.standard.memSize < Config.fontBase + 80
  · obtain ⟨j, hj⟩ := Nat.exists_eq_add_of_le hf.1
    have hj80 : j < 80 := by omega
    rw [← Memory.read_mod, hj]
    refine (Memory.read_reset_font hl (by rw [fontTable_length]; exact hj80)).trans ?_
    exact Option.some.inj ((List.getElem?_eq_getElem _).symm.trans (Memory.initial_font ⟨j, hj80⟩))
  · rw [Memory.initial_of_not_font hf]
    exact Memory.read_reset_of_not_font hl hf

/-! ### Construction (R10, R230, R233) -/

section Construct
variable {c : RunConfig} {rom : List Byte}

theorem construct_of_illegal (h : c.legal = false) : construct c rom = .refused .illegalConfig := by
  simp [construct, h]

theorem construct_of_rom_too_long (h : c.legal = true) (hr : romSpace c < rom.length) :
    construct c rom = .refused .romTooLong := by
  simp [construct, h, hr]

theorem construct_of_rom_fits (h : c.legal = true) (hr : rom.length ≤ romSpace c) :
    construct c rom = .next { State.fresh c with mem := loadRom c (Memory.reset c) rom } := by
  simp [construct, h, Nat.not_lt.2 hr]

/-- A construction succeeds exactly for a legal configuration and a ROM that fits, and leaves one state. -/
theorem construct_eq_next_iff {s : State} :
    construct c rom = .next s ↔ c.legal = true ∧ rom.length ≤ romSpace c ∧
      s = { State.fresh c with mem := loadRom c (Memory.reset c) rom } := by
  constructor
  · intro h
    cases hl : c.legal with
    | false => cases (construct_of_illegal hl).symm.trans h
    | true =>
      rcases Nat.lt_or_ge (romSpace c) rom.length with hr | hr
      · cases (construct_of_rom_too_long hl hr).symm.trans h
      · cases (construct_of_rom_fits hl hr).symm.trans h
        exact ⟨rfl, hr, rfl⟩
  · rintro ⟨hl, hr, rfl⟩
    exact construct_of_rom_fits hl hr

/-- R50: a constructed core is idle until `start()`. -/
theorem run_of_construct {s : State} (h : construct c rom = .next s) : s.run = .idle := by
  obtain ⟨-, -, rfl⟩ := construct_eq_next_iff.1 h
  rfl

theorem construct_standard_nil : construct RunConfig.standard [] = .next State.reset := by
  rw [construct_of_rom_fits (by decide) (Nat.zero_le _), Memory.reset_standard]
  rfl

/-! ### Launch (R204, R234, R235) -/

/-- R204: `start()` sets an idle core running and changes nothing else. -/
theorem State.start_of_idle {s : State} (h : s.run = .idle) : s.start = { s with run := .running } :=
  if_pos h

theorem launch_none : launch c none = .fault .romUnreadable := rfl

theorem launch_of_construct_refused {r : Refusal} (h : construct c rom = .refused r) :
    launch c (some rom) = .refused r := by
  simp [launch, h]

theorem launch_of_construct_next {s : State} (h : construct c rom = .next s) :
    launch c (some rom) = .next { s with run := .running } := by
  simp [launch, h, State.start_of_idle (run_of_construct h)]

end Construct

/-- Settles O60, by the outcome of the construction: each refusal passes through the launch, and a constructed core is
idle, so `start()` runs it. -/
theorem launchStartsOrStops : Obligations.LaunchStartsOrStops := by
  unfold Obligations.LaunchStartsOrStops
  refine ⟨fun c rom hl => ?illegal, fun c rom hl hr => ?tooLong, fun _ => launch_none,
    fun _ _ _ => launch_of_construct_next, construct_standard_nil⟩
  case illegal =>
    have hc : construct c rom = .refused .illegalConfig := construct_of_illegal hl
    exact ⟨hc, launch_of_construct_refused hc⟩
  case tooLong =>
    have hc : construct c rom = .refused .romTooLong := construct_of_rom_too_long hl hr
    exact ⟨hc, launch_of_construct_refused hc⟩

end Sys2Proof.Machine
end

section
/-! PROOFS. What the execute phase of any instruction can do, said once by kind of effect, and the frame statements read
off it: O32 to O35 (spec/10_state.md R31, R33, R36, R39, R40, R44, R54, R55, R58; spec/20_memory.md R74, R83). -/
namespace Sys2Proof.Machine

/-! ### The kinds of effect -/

/-- What executing an instruction in `s` can leave, one constructor per kind of effect. -/
inductive ExecEffect (s : State) : Instr → State → Prop
  /-- nothing (R110) -/
  | none : ExecEffect s .nop s
  /-- V registers, of those listed for the instruction (R33, R42) -/
  | regs {i : Instr} (v : Vector Byte Config.numV) (hv : ∀ r : Reg, writesReg i r = false → v[r] = s.v[r]) :
      ExecEffect s i { s with v := v }
  /-- a draw, into one register (R142) -/
  | random (x : Reg) (kk b : Byte) : ExecEffect s (.rnd x kk) (s.randomByte.2.setReg x b)
  /-- a skip (R100) -/
  | skip {i : Instr} (c : Bool) (hi : isSkip i = true) : ExecEffect s i (s.skipIf c)
  /-- a jump (R112, R118) -/
  | jump {i : Instr} (a : Word) (hi : isTransfer i = true) : ExecEffect s i (s.jump a)
  /-- a push and a jump (R113) -/
  | call (nnn : Addr12) : ExecEffect s (.call nnn) ((s.push s.pc).jump (addrOperand nnn))
  /-- a pop and a jump (R111) -/
  | ret : ExecEffect s .ret (s.pop.2.jump s.pop.1)
  /-- the index register, by one of its three writers (R39) -/
  | index {i : Instr} (w : Word) (hi : (∃ nnn, i = .ldI nnn) ∨ (∃ x, i = .addI x) ∨ ∃ x, i = .ldF x) :
      ExecEffect s i (s.setIndex w)
  /-- bytes from `I` up, as many as the instruction stores (R83) -/
  | store {i : Instr} (l : List Byte) (hl : l.length = storedBytes i) : ExecEffect s i (s.storeAtIndex l)
  /-- the delay timer (R183) -/
  | delay (x : Reg) : ExecEffect s (.ldDtVx x) { s with dt := s.reg x }
  /-- the sound timer (R184) -/
  | sound (x : Reg) : ExecEffect s (.ldStVx x) { s with st := s.reg x }
  /-- an empty screen (R167) -/
  | clear : ExecEffect s .cls { s with fb := Frame.blank s.cfg }
  /-- a sprite, and its collision in VF (R168) -/
  | sprite (x y : Reg) (n : Fin 16) (b : Byte) :
      ExecEffect s (.drw x y n) ({ s with fb := (s.spriteDraw x y n).fb }.setReg vf b)
  /-- the key-wait hold (R181) -/
  | await (x : Reg) : ExecEffect s (.ldVxK x) { s with wait := some x }
  /-- a report (R193) -/
  | report (w : Word) : ExecEffect s (.unrecognized w) (s.report (.unrecognized w (prevPc s.cfg s.pc)))

section
variable {s t : State} {i : Instr}

/-- One register written, the one listed for the instruction. -/
theorem ExecEffect.setReg {x : Reg} (b : Byte) (hx : ∀ r, writesReg i r = false → r ≠ x) :
    ExecEffect s i (s.setReg x b) :=
  .regs _ fun r hr => State.reg_setReg_of_ne s b (hx r hr)

/-- Two registers written, the result and the flag. -/
theorem ExecEffect.setReg_setReg {x y : Reg} (b c : Byte) (hxy : ∀ r, writesReg i r = false → r ≠ x ∧ r ≠ y) :
    ExecEffect s i ((s.setReg x b).setReg y c) :=
  .regs _ fun r hr =>
    (State.reg_setReg_of_ne _ c (hxy r hr).2).trans (State.reg_setReg_of_ne s b (hxy r hr).1)

/-- The execute phase of every instruction has one of the effects. -/
theorem exec_effect (h : exec i s = .next t) : ExecEffect s i t := by
  cases i with
  | nop => cases h; exact .none
  | cls => cases h; exact .clear
  | ret => cases h; exact .ret
  | call nnn => cases h; exact .call nnn
  | jp nnn | jpV0 nnn => cases h; exact .jump _ rfl
  | seImm x kk | sneImm x kk | seReg x y | sneReg x y | skp x | sknp x => cases h; exact .skip _ rfl
  | ldImm x kk | addImm x kk | ldReg x y | orReg x y | andReg x y | xorReg x y | ldVxDt x =>
    cases h; exact .setReg _ fun r hr => by simpa [writesReg] using hr
  | addReg x y | subReg x y | subn x y =>
    cases h; exact .setReg_setReg _ _ fun r hr => by simpa [writesReg] using hr
  | shr x y | shl x y =>
    cases h; exact .setReg_setReg _ _ fun r hr => by simpa [writesReg, and_comm] using hr
  | rnd x kk => cases h; exact .random x kk _
  | drw x y n => cases h; exact .sprite x y n _
  | ldVxK x =>
    change execLdVxK x s = .next t at h
    unfold execLdVxK at h
    split at h
    · cases h; exact .setReg _ fun r hr => by simpa [writesReg] using hr
    · cases h; exact .await x
  | ldDtVx x => cases h; exact .delay x
  | ldStVx x => cases h; exact .sound x
  | ldI nnn => cases h; exact .index _ (.inl ⟨nnn, rfl⟩)
  | addI x => cases h; exact .index _ (.inr (.inl ⟨x, rfl⟩))
  | ldF x => cases h; exact .index _ (.inr (.inr ⟨x, rfl⟩))
  | ldB x => cases h; exact .store _ (length_decimalDigits _)
  | storeRegs x => cases h; exact .store _ (length_regBlock _ x)
  | loadRegs x =>
    cases h
    refine .regs _ fun r hr => (State.getElem_loadBlock s x r).trans (if_neg ?_)
    simpa [writesReg] using hr
  | unrecognized w => cases h; exact .report w

/-! ### What each part of the state keeps -/

/-- No instruction writes the keys, the run state, the strikes, the stop flag, the configuration or the bookkeeping. -/
theorem exec_keeps_control (h : exec i s = .next t) :
    t.keys = s.keys ∧ t.run = s.run ∧ t.strikes = s.strikes ∧ t.stopReq = s.stopReq ∧ t.cfg = s.cfg ∧
      t.env = s.env := by
  cases exec_effect h with
  | ret | skip => simp
  | _ => exact ⟨rfl, rfl, rfl, rfl, rfl, rfl⟩

theorem exec_reg_of_not_written {r : Reg} (h : exec i s = .next t) (hr : writesReg i r = false) :
    t.v[r] = s.v[r] := by
  cases exec_effect h with
  | regs v hv => exact hv r hr
  | random x kk b => exact State.reg_setReg_of_ne _ b (by simpa [writesReg] using hr)
  | sprite x y n b => exact State.reg_setReg_of_ne _ b (by simpa [writesReg] using hr)
  | ret | skip => simp
  | _ => rfl

theorem isTransfer_eq_false_of_isSkip (h : isSkip i = true) : isTransfer i = false := by
  cases i <;> simp [isSkip, isTransfer] at h ⊢

theorem exec_pc_of_skip (hc : s.cfg.legal = true) (h : exec i s = .next t) (hi : isSkip i = true) :
    t.pc = s.pc ∨ t.pc.toNat = (s.pc.toNat + 2) % s.cfg.memSize := by
  cases exec_effect h with
  | skip c =>
    cases c with
    | false => exact .inl rfl
    | true => exact .inr (nextPc_toNat hc s.pc)
  | jump a ht => cases ht.symm.trans (isTransfer_eq_false_of_isSkip hi)
  | call | ret => cases hi
  | _ => exact .inl rfl

theorem exec_pc_of_not_skip (h : exec i s = .next t) (hi : isSkip i = false) (ht : isTransfer i = false) :
    t.pc = s.pc := by
  cases exec_effect h with
  | skip c hs => cases hs.symm.trans hi
  | jump a hj => cases hj.symm.trans ht
  | call | ret => cases ht
  | _ => rfl

theorem exec_index (h : exec i s = .next t) (h1 : ∀ nnn, i ≠ .ldI nnn) (h2 : ∀ x, i ≠ .addI x)
    (h3 : ∀ x, i ≠ .ldF x) : t.i = s.i := by
  cases exec_effect h with
  | index w hi =>
    obtain ⟨nnn, hi⟩ | ⟨x, hi⟩ | ⟨x, hi⟩ := hi
    · exact absurd hi (h1 nnn)
    · exact absurd hi (h2 x)
    · exact absurd hi (h3 x)
  | ret | skip => simp
  | _ => rfl

theorem exec_dt (h : exec i s = .next t) (hi : ∀ x, i ≠ .ldDtVx x) : t.dt = s.dt := by
  cases exec_effect h with
  | delay x => exact absurd rfl (hi x)
  | ret | skip => simp
  | _ => rfl

theorem exec_st (h : exec i s = .next t) (hi : ∀ x, i ≠ .ldStVx x) : t.st = s.st := by
  cases exec_effect h with
  | sound x => exact absurd rfl (hi x)
  | ret | skip => simp
  | _ => rfl

theorem exec_stack (h : exec i s = .next t) (hi : ∀ nnn, i ≠ .call nnn) : t.stack = s.stack := by
  cases exec_effect h with
  | call nnn => exact absurd rfl (hi nnn)
  | ret | skip => simp
  | _ => rfl

theorem exec_sp (h : exec i s = .next t) (hi : ∀ nnn, i ≠ .call nnn) (hr : i ≠ .ret) : t.sp = s.sp := by
  cases exec_effect h with
  | call nnn => exact absurd rfl (hi nnn)
  | ret => exact absurd rfl hr
  | skip => simp
  | _ => rfl

/-- An address outside the bytes the instruction stores reads as before (R83). -/
theorem exec_readByte {a : Nat} (h : exec i s = .next t)
    (ha : ∀ j < storedBytes i, a % s.cfg.memSize ≠ (s.i.toNat + j) % s.cfg.memSize) :
    t.readByte a = s.readByte a := by
  cases exec_effect h with
  | store l hl => exact State.readByte_storeAtIndex_of_ne (by rwa [hl])
  | ret | skip => exact State.readByte_congr (by simp) (by simp) a
  | _ => rfl

theorem exec_fb (h : exec i s = .next t) (hc : i ≠ .cls) (hd : ∀ x y n, i ≠ .drw x y n) : t.fb = s.fb := by
  cases exec_effect h with
  | clear => exact absurd rfl hc
  | sprite x y n b => exact absurd rfl (hd x y n)
  | ret | skip => simp
  | _ => rfl

theorem exec_wait (h : exec i s = .next t) (hi : ∀ x, i ≠ .ldVxK x) : t.wait = s.wait := by
  cases exec_effect h with
  | await x => exact absurd rfl (hi x)
  | ret | skip => simp
  | _ => rfl

theorem exec_diag (h : exec i s = .next t) (hi : ∀ w, i ≠ .unrecognized w) : t.diag = s.diag := by
  cases exec_effect h with
  | report w => exact absurd rfl (hi w)
  | ret | skip => simp
  | _ => rfl

theorem exec_draws (h : exec i s = .next t) (hr : i ≠ .ret) (hi : ∀ x kk, i ≠ .rnd x kk) : t.draws = s.draws := by
  cases exec_effect h with
  | random x kk b => exact absurd rfl (hi x kk)
  | ret => exact absurd rfl hr
  | skip => simp
  | _ => rfl

end

/-! ### O32 to O35 -/

/-- Settles O32, by the kinds of effect: each names the registers it may write. -/
theorem registersChangeOnlyAsListed : Obligations.RegistersChangeOnlyAsListed :=
  fun _ _ _ _ => exec_reg_of_not_written

/-- Settles O33, one clause per register. -/
theorem pcIndexTimersChangeOnlyAsListed : Obligations.PcIndexTimersChangeOnlyAsListed :=
  fun _ _ _ h => ⟨fun hc => exec_pc_of_skip hc h, exec_pc_of_not_skip h, exec_index h, exec_dt h, exec_st h⟩

/-- Settles O34, one clause each for the slots, SP and memory. -/
theorem stackMemoryChangeOnlyAsListed : Obligations.StackMemoryChangeOnlyAsListed :=
  fun _ _ _ h => ⟨exec_stack h, exec_sp h, fun _ => exec_readByte h⟩

/-- Settles O35: the control state is kept by every instruction, and each device by all but its own writers. -/
theorem devicesControlChangeOnlyAsListed : Obligations.DevicesControlChangeOnlyAsListed := by
  intro i s t h
  obtain ⟨hkeys, hrun, hstrikes, hstop, hcfg, henv⟩ := exec_keeps_control h
  exact ⟨exec_fb h, hkeys, hrun, hstrikes, hstop, hcfg, henv, exec_wait h, exec_diag h, exec_draws h⟩

end Sys2Proof.Machine
end

section
/-! PROOFS. What every step keeps: the configuration (O44), the keys but for the input agent's moves (O50), the
reports made before it (O47), and the invariant (O40, O41) (spec/10_state.md R31, R54, R57; spec/30_encoding.md R98;
spec/60_exceptions.md R191 to R208). -/
namespace Sys2Proof.Machine

section
variable {s t : State} {m : Move} {rest : List Move}

/-! ### The configuration and the keys (R31, R57) -/

theorem runCycle_keeps (h : runCycle s = .next t) : t.cfg = s.cfg ∧ t.keys = s.keys := by
  obtain ⟨u, hu, rfl⟩ := runCycle_cases h
  obtain ⟨hkeys, -, -, -, hcfg, -⟩ := exec_keeps_control hu
  simp [hkeys, hcfg]

theorem Move.effect_cfg (h : m.effect s = .next t) : t.cfg = s.cfg := by
  cases m with
  | instructionCycle => simpa using (runCycle_keeps h).1
  | _ => cases h; simp

/-- A move that is not the input agent's leaves the keys. -/
theorem Move.effect_keys (hset : ∀ k, m ≠ .keySet k) (hunset : ∀ k, m ≠ .keyUnset k) (h : m.effect s = .next t) :
    t.keys = s.keys := by
  cases m with
  | instructionCycle => simpa using (runCycle_keeps h).2
  | keySet k => exact absurd rfl (hset k)
  | keyUnset k => exact absurd rfl (hunset k)
  | _ => cases h; simp

/-- The key number of R175's mask, from its value. -/
theorem keyIndex_eq {k : Byte} {j : Key} (h : j.val = k.toNat % 16) : keyIndex k = j :=
  Fin.ext ((keyIndex_val k).trans h.symm)

theorem step_keySet {k : Byte} (hs : s.env.schedule = .keySet k :: rest) :
    step s = .next { s with keys := s.keys.set (keyIndex k) true, env := { s.env with schedule := rest } } :=
  step_scheduled hs rfl

theorem step_keyUnset {k : Byte} (hs : s.env.schedule = .keyUnset k :: rest) :
    step s = .next { s with keys := s.keys.set (keyIndex k) false, env := { s.env with schedule := rest } } :=
  step_scheduled hs rfl

end

/-- Settles O44, by the cases of a step: a round drawn, a move passed over, a move's effect. -/
theorem stepKeepsConfiguration : Obligations.StepKeepsConfiguration := by
  intro s t h
  obtain ⟨-, rfl⟩ | ⟨m, rest, -, ⟨-, rfl⟩ | ⟨-, he⟩⟩ := step_cases h
  · rfl
  · simp
  · simpa using Move.effect_cfg he

/-- Settles O50: the input agent's moves by the mask, every other by the cases of a step. -/
theorem keysChangeOnlyByInput : Obligations.KeysChangeOnlyByInput := by
  refine ⟨fun s k rest j hj => ?_, fun s t hset hunset h => ?_⟩
  · obtain rfl := keyIndex_eq hj
    exact ⟨step_keySet, step_keyUnset⟩
  obtain ⟨-, rfl⟩ | ⟨m, rest, hs, ⟨-, rfl⟩ | ⟨-, he⟩⟩ := step_cases h
  · rfl
  · simp
  · have hm : t.keys = (s.withSchedule rest).keys :=
      Move.effect_keys (fun k hk => hset k rest (hk ▸ hs)) (fun k hk => hunset k rest (hk ▸ hs)) he
    simpa using hm

/-! ### Reports are output only (R54, R195) -/

/-- The state with the events `l` reported before its own. -/
def State.withEarlier (s : State) (l : List DiagEvent) : State := { s with diag := l ++ s.diag }

section
variable {s t : State} {m : Move} {i : Instr} (l : List DiagEvent)

theorem State.skipIf_withEarlier (c : Bool) : (s.withEarlier l).skipIf c = (s.skipIf c).withEarlier l := by
  cases c <;> rfl

theorem State.pop_withEarlier : (s.withEarlier l).pop = (s.pop.1, s.pop.2.withEarlier l) := by
  cases h : s.topSlot with
  | pushed a => rw [State.pop_pushed h, State.pop_pushed (s := s.withEarlier l) h]; rfl
  | unwritten => rw [State.pop_unwritten h, State.pop_unwritten (s := s.withEarlier l) h]; rfl

/-- A report comes after the earlier events, whichever they are. -/
theorem State.report_withEarlier (e : DiagEvent) : (s.withEarlier l).report e = (s.report e).withEarlier l := by
  simp [State.report, State.withEarlier]

theorem exec_withEarlier (h : exec i s = .next t) : exec i (s.withEarlier l) = .next (t.withEarlier l) := by
  cases i with
  | ret =>
    cases h
    change Host.Outcome.next ((s.withEarlier l).pop.2.jump (s.withEarlier l).pop.1) = _
    rw [State.pop_withEarlier]
    rfl
  | seImm x kk | sneImm x kk | seReg x y | sneReg x y | skp x | sknp x =>
    cases h
    exact congrArg Host.Outcome.next (State.skipIf_withEarlier l _)
  | ldVxK x =>
    change execLdVxK x s = .next t at h
    change execLdVxK x (s.withEarlier l) = _
    unfold execLdVxK at h ⊢
    rw [State.nextPressedKey_congr (s := s) (t := s.withEarlier l) rfl]
    split at h <;> (cases h; rfl)
  | unrecognized w =>
    cases h
    exact congrArg Host.Outcome.next (State.report_withEarlier l _)
  | _ => cases h; rfl

theorem State.haltIfStruck_withEarlier : (s.withEarlier l).haltIfStruck = s.haltIfStruck.withEarlier l := by
  unfold State.haltIfStruck
  change (if s.strikes = s.cfg.haltStrikes then (s.withEarlier l).halt else s.withEarlier l) = _
  split
  · unfold State.halt
    rw [State.report_withEarlier]
    rfl
  · rfl

theorem runCycle_withEarlier (h : runCycle s = .next t) :
    runCycle (s.withEarlier l) = .next (t.withEarlier l) := by
  obtain ⟨u, hu, rfl⟩ := runCycle_cases h
  have he : exec (decodeWord s.nextWord) ((s.withEarlier l).fetched s.nextWord) = .next (u.withEarlier l) :=
    exec_withEarlier l hu
  change haltCheck (exec (decodeWord s.nextWord) ((s.withEarlier l).fetched s.nextWord)) = _
  rw [he, ← State.haltIfStruck_withEarlier]
  rfl

theorem State.spendCycle_withEarlier : (s.withEarlier l).spendCycle = s.spendCycle.withEarlier l := by
  by_cases h : s.stopReq = true <;> simp [State.spendCycle, State.withEarlier, h]

theorem State.spendTick_withEarlier : (s.withEarlier l).spendTick = s.spendTick.withEarlier l := by
  by_cases hr : s.run = .halted
  · simp [State.spendTick, State.withEarlier, hr]
  · by_cases hq : s.stopReq = true <;> simp [State.spendTick, State.withEarlier, hr, hq]

theorem State.endKeyWait_of_not_waiting (h : s.wait = none) : s.endKeyWait = s := by
  unfold State.endKeyWait
  rw [h]

theorem State.endKeyWait_withEarlier : (s.withEarlier l).endKeyWait = s.endKeyWait.withEarlier l := by
  cases hw : s.wait with
  | none => rw [State.endKeyWait_of_not_waiting hw, State.endKeyWait_of_not_waiting (s := s.withEarlier l) hw]
  | some x =>
    cases hk : s.nextPressedKey with
    | none => rw [State.endKeyWait_of_none hk, State.endKeyWait_of_none (s := s.withEarlier l) hk]
    | some k => rw [State.endKeyWait_eq hw hk, State.endKeyWait_eq (s := s.withEarlier l) hw hk]; rfl

theorem State.start_withEarlier : (s.withEarlier l).start = s.start.withEarlier l := by
  by_cases h : s.run = .idle <;> simp [State.start, State.withEarlier, h]

theorem Move.passOver_withEarlier : m.passOver (s.withEarlier l) = (m.passOver s).withEarlier l := by
  cases m with
  | instructionCycle | keyWaitEnd | stopSeen =>
    by_cases h : s.run = .halted <;> simp [Move.passOver, State.withEarlier, h]
  | _ => rfl

theorem Move.effect_withEarlier (h : m.effect s = .next t) :
    m.effect (s.withEarlier l) = .next (t.withEarlier l) := by
  cases m with
  | instructionCycle =>
    change runCycle (s.beginCoreStep.withEarlier l).spendCycle = _
    rw [State.spendCycle_withEarlier]
    exact runCycle_withEarlier l h
  | keyWaitEnd => cases h; exact congrArg Host.Outcome.next (State.endKeyWait_withEarlier (s := s.beginCoreStep) l)
  | timerTick =>
    cases h
    exact congrArg (Host.Outcome.next ∘ State.tick) (State.spendTick_withEarlier (s := s.beginCoreStep) l)
  | start => cases h; exact congrArg Host.Outcome.next (State.start_withEarlier l)
  | _ => cases h; rfl

end

/-- Settles O47: each operation of a step commutes with reports made before it. -/
theorem diagnosticsAreOutputOnly : Obligations.DiagnosticsAreOutputOnly := by
  intro s t l h
  change step (s.withEarlier l) = .next (t.withEarlier l)
  obtain ⟨hs, rfl⟩ | ⟨m, rest, hs, ⟨he, rfl⟩ | ⟨he, hm⟩⟩ := step_cases h
  · exact step_empty hs
  · rw [← Move.passOver_withEarlier]
    exact step_passed (s := s.withEarlier l) hs he
  · rw [← Move.effect_withEarlier l hm]
    exact step_scheduled (s := s.withEarlier l) hs he

end Sys2Proof.Machine
end

section
/-! PROOFS. The invariant: it holds after every construction (O40) and every step keeps it (O41). -/
namespace Sys2Proof.Machine

section
variable {s t : State} {m : Move} {i : Instr}

/-! ### One update at a time -/

/-- A push keeps the form of the stack (R44). -/
theorem State.push_stack_form (h : s.stack.length = s.cfg.stackDepth ∧ s.sp < s.cfg.stackDepth) (a : Word) :
    (s.push a).stack.length = (s.push a).cfg.stackDepth ∧ (s.push a).sp < (s.push a).cfg.stackDepth :=
  ⟨(List.length_set ..).trans h.1, spUp_lt h.2⟩

/-- A push of an address inside memory (R113). -/
theorem State.Inv.push (h : s.Inv) {a : Word} (ha : a.toNat < s.cfg.memSize) : (s.push a).Inv :=
  { h with
    stack := State.push_stack_form h.stack a
    returns := fun slot hs => by
      rcases List.mem_or_eq_of_mem_set hs with hs | rfl
      · exact h.returns slot hs
      · exact decide_eq_true ha }

theorem State.Inv.pop (h : s.Inv) : s.pop.2.Inv := by
  cases hk : s.topSlot with
  | pushed a => rw [State.pop_pushed hk]; exact { h with stack := ⟨h.stack.1, spDown_lt h.stack.2⟩ }
  | unwritten => rw [State.pop_unwritten hk]; exact { h with stack := ⟨h.stack.1, spDown_lt h.stack.2⟩ }

theorem State.Inv.skipIf (h : s.Inv) (c : Bool) : (s.skipIf c).Inv := by
  rw [State.skipIf_eq]
  exact { h with }

theorem State.Inv.storeAtIndex (h : s.Inv) (l : List Byte) : (s.storeAtIndex l).Inv := by
  have hs := RunConfig.legal_memSize h.config
  exact { h with memory := Memory.writeBytes_wf (by omega) h.memory _ l }

/-- A report of an unrecognized word is no halt (R194). -/
theorem State.Inv.report_unrecognized (h : s.Inv) (w a : Word) : (s.report (.unrecognized w a)).Inv :=
  { h with reported := by simpa [DiagEvent.isHalt] using h.reported }

theorem State.Inv.spendCycle (h : s.Inv) : s.spendCycle.Inv := by
  unfold State.spendCycle
  split
  case isTrue hstop => exact { h with allowance := fun hq => absurd hstop (Bool.eq_false_iff.1 hq) }
  case isFalse => exact h

theorem State.Inv.spendTick (h : s.Inv) : s.spendTick.Inv := by
  unfold State.spendTick
  split
  · exact { h with late := nofun }
  · split
    case isTrue hstop => exact { h with allowance := fun hq => absurd hstop (Bool.eq_false_iff.1 hq) }
    case isFalse => exact h

theorem State.Inv.endKeyWait (h : s.Inv) : s.endKeyWait.Inv := by
  unfold State.endKeyWait
  split
  · exact { h with waiting := fun hw => absurd rfl hw }
  · exact h

/-- A stop that is seen, where no key is waited for (R206). -/
theorem State.Inv.seeStop (h : s.Inv) (hw : s.wait = none) : s.seeStop.Inv :=
  { h with
    striking := fun hn => absurd rfl hn
    waiting := fun hn => absurd hw hn
    late := fun _ => rfl
    idle := nofun }

theorem State.Inv.start (h : s.Inv) : s.start.Inv := by
  unfold State.start
  split
  case isTrue hi =>
    exact { h with
      striking := fun _ => h.striking (by rw [hi]; nofun)
      waiting := fun _ => rfl
      late := fun hl => nomatch hi.symm.trans (h.late hl)
      idle := nofun }
  case isFalse => exact h

/-- A stop ends an idle core, which waits for no key and has no late tick, and leaves any other run state (R204). -/
theorem State.Inv.stop (h : s.Inv) : s.stop.Inv := by
  unfold State.stop
  split
  case isTrue hi =>
    exact { h with
      striking := fun hn => absurd rfl hn
      waiting := fun hw => nomatch hi.symm.trans (h.waiting hw)
      late := fun _ => rfl
      idle := nofun
      allowance := nofun }
  case isFalse hi => exact { h with idle := fun hr => absurd hr hi, allowance := nofun }

/-! ### The instruction cycle -/

/-- The execute phase keeps the invariant, where the core runs and the fetch has brought PC inside memory. -/
theorem exec_keeps_inv (h : s.Inv) (hr : s.run = .running) (hpc : s.pc.toNat < s.cfg.memSize)
    (he : exec i s = .next t) : t.Inv := by
  cases exec_effect he with
  | skip c => exact h.skipIf c
  | call nnn => exact { h.push hpc with }
  | ret => exact { h.pop with }
  | store l => exact h.storeAtIndex l
  | clear => exact { h with screen := Frame.blank_wf _ }
  | sprite => exact { h with screen := Frame.draw_wf h.screen _ _ _ }
  | await x => exact { h with waiting := fun _ => hr }
  | report w => exact h.report_unrecognized w _
  | _ => exact { h with }

theorem State.Inv.strikes_lt (h : s.Inv) (hr : s.run = .running) : s.strikes < s.cfg.haltStrikes :=
  h.striking (by rw [hr]; nofun)

/-- A running core has reported no halt. -/
theorem State.Inv.unreported (h : s.Inv) (hr : s.run = .running) : (s.diag.filter DiagEvent.isHalt).length = 0 :=
  h.reported.2 (Nat.ne_of_lt (h.strikes_lt hr))

theorem State.Inv.fetched_strikes_le (h : s.Inv) (hr : s.run = .running) (w : Word) :
    (s.fetched w).strikes ≤ s.cfg.haltStrikes := by
  have := h.strikes_lt hr
  rw [State.fetched_strikes]
  split <;> omega

/-- A fetch below the halting strike. -/
theorem State.Inv.fetched {w : Word} (h : s.Inv) (hr : s.run = .running)
    (hlt : (s.fetched w).strikes < s.cfg.haltStrikes) : (s.fetched w).Inv :=
  { h with
    strikes := Nat.le_of_lt hlt
    striking := fun _ => hlt
    reported := ⟨fun he => absurd he (Nat.ne_of_lt hlt), fun _ => h.unreported hr⟩ }

/-- The fetch of the halting strike, and the halt it ends in (R197). -/
theorem State.Inv.halt_fetched {w : Word} (h : s.Inv) (hr : s.run = .running) (hw : s.wait = none)
    (he : (s.fetched w).strikes = s.cfg.haltStrikes) : (s.fetched w).halt.Inv :=
  { h with
    strikes := Nat.le_of_eq he
    striking := fun hn => absurd rfl hn
    reported := by
      refine ⟨fun _ => ?_, fun hn => absurd he hn⟩
      rw [State.halt_diag, List.filter_append, List.length_append, State.fetched_diag, h.unreported hr]
      rfl
    waiting := fun hn => absurd hw hn
    late := fun _ => rfl
    idle := nofun }

/-- Only a 0x0000 word brings the strikes to HALT_STRIKES, which is above 0 (R196, log 1). -/
theorem word_eq_zero_of_struck {w : Word} (hc : s.cfg.legal = true)
    (he : (s.fetched w).strikes = s.cfg.haltStrikes) : w = 0x0000#16 := by
  obtain ⟨-, -, -, hpos⟩ := RunConfig.legal_sizes hc
  by_contra hw
  rw [State.fetched_strikes, if_neg hw] at he
  omega

/-- A cycle of a running core that waits for no key: below the halting strike the execute phase keeps the invariant and
no halt follows; at it the word is 0x0000, which executes as nothing, and the halt follows. -/
theorem runCycle_keeps_inv (h : s.Inv) (hr : s.run = .running) (hw : s.wait = none) (hc : runCycle s = .next t) :
    t.Inv := by
  obtain ⟨u, hu, rfl⟩ := runCycle_cases hc
  rcases Nat.lt_or_eq_of_le (h.fetched_strikes_le hr s.nextWord) with hlt | heq
  · have hinv : u.Inv := exec_keeps_inv (h.fetched hr hlt) hr (nextPc_lt h.config s.pc) hu
    obtain ⟨-, hrun, -⟩ := exec_keeps_control hu
    obtain ⟨-, hsame⟩ | ⟨hstruck, -⟩ := u.haltIfStruck_cases
    · rwa [hsame]
    · exact absurd hstruck (Nat.ne_of_lt (hinv.strikes_lt (hrun.trans hr)))
  · have hz := word_eq_zero_of_struck h.config heq
    have hnop : exec (decodeWord s.nextWord) (s.fetched s.nextWord) = .next (s.fetched s.nextWord) := by
      rw [hz]
      rfl
    cases hnop.symm.trans hu
    have hhalt : (s.fetched s.nextWord).haltIfStruck = (s.fetched s.nextWord).halt := if_pos heq
    rw [hhalt]
    exact h.halt_fetched hr hw heq

/-! ### Every move -/

theorem Move.passOver_keeps_inv (h : s.Inv) (m : Move) : (m.passOver s).Inv := by
  obtain hp | ⟨-, hp⟩ := m.passOver_cases s
  · rwa [hp]
  · rw [hp]
    exact { h with late := nofun }

theorem Move.effect_keeps_inv (h : s.Inv) (he : m.enabled s = true) (ht : m.effect s = .next t) : t.Inv := by
  have hbegin : s.beginCoreStep.Inv := { h with }
  cases m with
  | instructionCycle =>
    obtain ⟨⟨hr, hw⟩, -⟩ : (s.run = .running ∧ s.wait = none) ∧ _ := by simpa [Move.enabled] using he
    exact runCycle_keeps_inv hbegin.spendCycle (by simpa using hr) (by simpa using hw) ht
  | keyWaitEnd => cases ht; exact hbegin.endKeyWait
  | timerTick => cases ht; exact { hbegin.spendTick with }
  | stopSeen =>
    obtain ⟨⟨-, hw⟩, -⟩ : (s.run = .running ∧ s.wait = none) ∧ _ := by simpa [Move.enabled] using he
    cases ht
    exact hbegin.seeStop hw
  | start => cases ht; exact h.start
  | stop => cases ht; exact h.stop
  | _ => cases ht; exact { h with }

/-- The state after construction, whatever memory it is given, in canonical form (R60). -/
theorem State.fresh_inv {c : RunConfig} {mem : Memory} (hc : c.legal = true) (hm : mem.wf c.memSize) :
    { State.fresh c with mem := mem }.Inv := by
  obtain ⟨hdepth, -, -, hstrikes⟩ := RunConfig.legal_sizes hc
  exact {
    config := hc
    memory := hm
    stack := ⟨List.length_replicate, Nat.sub_lt hdepth Nat.one_pos⟩
    screen := Frame.blank_wf c
    strikes := Nat.zero_le _
    striking := fun _ => hstrikes
    reported := ⟨fun h0 => absurd h0 (Nat.ne_of_lt hstrikes), fun _ => rfl⟩
    returns := fun slot hs => by rw [List.eq_of_mem_replicate hs]; rfl
    waiting := fun hw => absurd rfl hw
    late := nofun
    idle := fun _ => rfl
    allowance := fun _ => ⟨rfl, rfl⟩ }

theorem construct_inv {c : RunConfig} {rom : List Byte} (h : construct c rom = .next s) : s.Inv := by
  obtain ⟨hc, -, rfl⟩ := construct_eq_next_iff.1 h
  have hn := RunConfig.legal_memSize hc
  exact State.fresh_inv hc (Memory.writeBytes_wf (by omega) (Memory.reset_wf c (by omega)) _ rom)

end

/-- Settles O40: every construction leaves the invariant, and the reset state is one, with an empty ROM. -/
theorem resetMeetsInvariant : Obligations.ResetMeetsInvariant :=
  ⟨construct_inv construct_standard_nil, fun _ _ _ => construct_inv⟩

/-- Settles O41, by the cases of a step: a round drawn, a move passed over, the effect of a move that is enabled. -/
theorem stepKeepsInvariant : Obligations.StepKeepsInvariant := by
  intro s t h hstep
  obtain ⟨-, rfl⟩ | ⟨m, rest, -, hm⟩ := step_cases hstep
  · exact { h with }
  · have hs : (s.withSchedule rest).Inv := { h with }
    obtain ⟨-, rfl⟩ | ⟨he, ht⟩ := hm
    · exact Move.passOver_keeps_inv hs m
    · exact Move.effect_keeps_inv hs he ht

end Sys2Proof.Machine
end

section
/-! PROOFS. Runs of pushes and pops on the circular stack (spec/10_state.md R44 to R49), and O58. -/
namespace Sys2Proof.Machine

/-! ### Where repeated pops move SP -/

theorem spDown_iterate {c : RunConfig} {sp n : Nat} (hsp : sp < c.stackDepth) (hn : n ≤ c.stackDepth) :
    (spDown c)^[n] sp = (sp + (c.stackDepth - n)) % c.stackDepth := by
  induction n with
  | zero => simp [Nat.mod_eq_of_lt hsp]
  | succ n ih =>
    rw [Function.iterate_succ_apply', ih (by omega), spDown, Nat.add_sub_assoc (by omega), Nat.mod_add_mod,
      show sp + (c.stackDepth - n) + (c.stackDepth - 1) = sp + (c.stackDepth - (n + 1)) + c.stackDepth by omega,
      Nat.add_mod_right]

/-- Fewer than STACK_DEPTH pops, and at least one, end at another slot. -/
theorem spDown_iterate_ne {c : RunConfig} {sp n : Nat} (hsp : sp < c.stackDepth) (h0 : 0 < n)
    (hn : n < c.stackDepth) : (spDown c)^[n] sp ≠ sp := by
  rw [spDown_iterate hsp (Nat.le_of_lt hn)]
  have hne := add_mod_ne (a := sp) (d := c.stackDepth - n) (n := c.stackDepth) (by omega) (by omega)
  rw [Nat.mod_eq_of_lt hsp] at hne
  exact hne.symm

section
variable {s : State} {l : List Word} {n : Nat}

theorem State.popAll_sp (n : Nat) (s : State) : (State.popAll n s).2.sp = (spDown s.cfg)^[n] s.sp := by
  induction n generalizing s with
  | zero => rfl
  | succ n ih => rw [State.popAll, ih, State.pop_cfg, State.pop_sp, Function.iterate_succ_apply]

/-! ### Runs of pushes -/

@[simp] theorem State.pushAll_append_singleton (s : State) (l : List Word) (a : Word) :
    s.pushAll (l ++ [a]) = (s.pushAll l).push a := by
  simp [State.pushAll]

@[simp] theorem State.pushAll_cfg (s : State) (l : List Word) : (s.pushAll l).cfg = s.cfg := by
  induction l using List.reverseRecOn with
  | nil => rfl
  | append_singleton l a ih => simp [ih]

theorem State.pushAll_stack_form (h : s.stack.length = s.cfg.stackDepth ∧ s.sp < s.cfg.stackDepth) (l : List Word) :
    (s.pushAll l).stack.length = (s.pushAll l).cfg.stackDepth ∧ (s.pushAll l).sp < (s.pushAll l).cfg.stackDepth := by
  induction l using List.reverseRecOn with
  | nil => exact h
  | append_singleton l a ih =>
    rw [State.pushAll_append_singleton]
    exact State.push_stack_form ih a

theorem State.pushAll_sp (h : s.sp < s.cfg.stackDepth) (l : List Word) :
    (s.pushAll l).sp = (s.sp + l.length) % s.cfg.stackDepth := by
  induction l using List.reverseRecOn with
  | nil => exact (Nat.mod_eq_of_lt h).symm
  | append_singleton l a ih => simp [ih, spUp, Nat.add_assoc]

/-! ### What the top slots hold -/

/-- Each of the top `n` slots, from SP down, holds the address of `l` at its place, if `l` has one. -/
def State.TopHolds (s : State) (n : Nat) (l : List Word) : Prop :=
  ∀ j < n, ∀ a, l[j]? = some a → s.stack[(spDown s.cfg)^[j] s.sp]? = some (.pushed a)

/-- A push puts its address on top; the slots below are others, for as many as the stack has. -/
theorem State.TopHolds.push (h : s.TopHolds n l)
    (hs : s.stack.length = s.cfg.stackDepth ∧ s.sp < s.cfg.stackDepth) (hn : n ≤ s.cfg.stackDepth) (a : Word) :
    (s.push a).TopHolds n (a :: l) := by
  intro j hj b hb
  cases j with
  | zero =>
    obtain rfl : a = b := by simpa using hb
    exact List.getElem?_set_self (by rw [hs.1]; exact spUp_lt hs.2)
  | succ j =>
    have hne := spDown_iterate_ne (spUp_lt hs.2) (Nat.succ_pos j) (Nat.lt_of_lt_of_le hj hn)
    rw [State.push_cfg, State.push_sp, State.push_stack, List.getElem?_set_ne hne.symm,
      Function.iterate_succ_apply, spDown_spUp hs.2]
    exact h j (Nat.lt_of_succ_lt hj) b (by simpa using hb)

theorem State.pushAll_topHolds (hs : s.stack.length = s.cfg.stackDepth ∧ s.sp < s.cfg.stackDepth)
    (hn : n ≤ s.cfg.stackDepth) (l : List Word) : (s.pushAll l).TopHolds n l.reverse := by
  induction l using List.reverseRecOn with
  | nil => exact fun _ _ _ h => nomatch h
  | append_singleton l a ih =>
    rw [State.pushAll_append_singleton, List.reverse_append]
    exact ih.push (State.pushAll_stack_form hs l) (by rwa [State.pushAll_cfg]) a

theorem State.TopHolds.pop_fst {a : Word} (h : s.TopHolds (n + 1) (a :: l)) : s.pop.1 = a := by
  rw [State.pop_pushed (State.topSlot_eq (h 0 (Nat.succ_pos n) a rfl))]

theorem State.TopHolds.pop_snd {a : Word} (h : s.TopHolds (n + 1) (a :: l)) : s.pop.2.TopHolds n l := by
  intro j hj b hb
  rw [State.pop_cfg, State.pop_sp, State.pop_stack, ← Function.iterate_succ_apply]
  exact h (j + 1) (Nat.succ_lt_succ hj) b hb

/-- Pops give what the top slots hold, from the top down (R46). -/
theorem State.TopHolds.popAll_fst (h : s.TopHolds n l) (hn : n ≤ l.length) :
    (State.popAll n s).1 = l.take n := by
  induction n generalizing s l with
  | zero => rfl
  | succ n ih =>
    cases l with
    | nil => exact absurd hn (Nat.not_succ_le_zero n)
    | cons a l => rw [State.popAll, h.pop_fst, ih h.pop_snd (Nat.le_of_succ_le_succ hn), List.take_succ_cons]

end

/-- Settles O58: after the pushes the top slots hold their reverse, which the pops read off while SP moves back. -/
theorem popsReverseLatestPushes : Obligations.PopsReverseLatestPushes := by
  intro s l n hlen hsp hn hl
  refine ⟨(State.pushAll_topHolds ⟨hlen, hsp⟩ hn l).popAll_fst (by rwa [List.length_reverse]), ?_⟩
  have hlt : (s.sp + l.length) % s.cfg.stackDepth < s.cfg.stackDepth := Nat.mod_lt _ (by omega)
  rw [State.popAll_sp, State.pushAll_cfg, State.pushAll_sp hsp, spDown_iterate hlt hn, Nat.mod_add_mod,
    show s.sp + l.length + (s.cfg.stackDepth - n) = s.sp + (l.length - n) + s.cfg.stackDepth by omega,
    Nat.add_mod_right]

end Sys2Proof.Machine
end

section
/-! PROOFS. What construction leaves (spec/10_state.md R60, spec/70_reset_and_hazards.md R230, R232): memory byte by
byte, and O59. -/
namespace Sys2Proof.Machine

section
variable {c : RunConfig} {rom : List Byte} {m : Memory}

theorem fontTable_eq_flatten (f : Font) : fontTable f = f.flatten.toList := by
  obtain ⟨⟨glyphs⟩, hsize⟩ := f
  simp only [fontTable, Vector.flatten, Vector.toList_mk, Array.toList_flatten, Array.toList_map, List.map_map]
  rfl

/-- Row `r` of glyph `d` stands at `5 * d + r` in the font table (R75). -/
theorem fontTable_getElem (f : Font) (d : Fin 16) (r : Fin 5) (h : 5 * d.val + r.val < (fontTable f).length) :
    (fontTable f)[5 * d.val + r.val] = (f[d])[r] := by
  have hd : (5 * d.val + r.val) / 5 = d.val := by omega
  have hr : (5 * d.val + r.val) % 5 = r.val := by omega
  simp [fontTable_eq_flatten, Vector.getElem_flatten, hd, hr]

/-- R232: the ROM's bytes verbatim from `PROG_ORIGIN` up. -/
theorem read_loadRom (hr : rom.length ≤ romSpace c) {k : Nat} (hk : k < rom.length) :
    (loadRom c m rom).read c.memSize (c.progOrigin + k) = rom[k] :=
  Memory.read_writeBytes _ _ _ _ (Nat.le_trans hr (Nat.sub_le ..)) hk

/-- A ROM that fits leaves every other byte. -/
theorem read_loadRom_of_not_rom (hr : rom.length ≤ romSpace c) {a : Nat} (ha : a < c.memSize)
    (hout : ¬(c.progOrigin ≤ a ∧ a < c.progOrigin + rom.length)) :
    (loadRom c m rom).read c.memSize a = m.read c.memSize a := by
  unfold romSpace at hr
  refine Memory.read_writeBytes_of_ne _ _ _ _ fun j hj haj => ?_
  rw [Nat.mod_eq_of_lt ha, Nat.mod_eq_of_lt (by omega)] at haj
  omega

/-- R60, R79: the font at `FONT_BASE`, where the ROM does not cover it. -/
theorem read_constructed_font (hc : c.legal = true) (hr : rom.length ≤ romSpace c) (d : Fin 16) (r : Fin 5)
    (hout : ¬(c.progOrigin ≤ c.fontBase + 5 * d.val + r.val ∧
      c.fontBase + 5 * d.val + r.val < c.progOrigin + rom.length)) :
    (loadRom c (Memory.reset c) rom).read c.memSize (c.fontBase + 5 * d.val + r.val) = (c.font[d])[r] := by
  obtain ⟨-, -, -, hfont, -⟩ := RunConfig.legal_memSize hc
  have hj : 5 * d.val + r.val < (fontTable c.font).length := by rw [fontTable_length]; omega
  rw [read_loadRom_of_not_rom hr (by omega) hout, Nat.add_assoc, Memory.read_reset_font hc hj, fontTable_getElem]

/-- R60, R79: 0x00 wherever neither the font nor the ROM stands. -/
theorem read_constructed_zero (hc : c.legal = true) (hr : rom.length ≤ romSpace c) {a : Nat} (ha : a < c.memSize)
    (hrom : ¬(c.progOrigin ≤ a ∧ a < c.progOrigin + rom.length)) (hfont : ¬(c.fontBase ≤ a ∧ a < c.fontBase + 80)) :
    (loadRom c (Memory.reset c) rom).read c.memSize a = 0 := by
  rw [read_loadRom_of_not_rom hr ha hrom]
  exact Memory.read_reset_of_not_font hc (by rwa [Nat.mod_eq_of_lt ha])

/-- R231: PC at `PROG_ORIGIN`, which 16 bits hold. -/
theorem State.fresh_pc_toNat (hc : c.legal = true) : (State.fresh c).pc.toNat = c.progOrigin := by
  obtain ⟨-, -, hmem, -, horigin⟩ := RunConfig.legal_memSize hc
  exact (BitVec.toNat_ofNat ..).trans (Nat.mod_eq_of_lt (by omega))

end

/-- Settles O59: the constructed state is the fresh one over the loaded memory, read row by row of R60's table. -/
theorem constructionLeavesResetState : Obligations.ConstructionLeavesResetState := by
  intro c rom hc hr
  refine ⟨_, construct_of_rom_fits hc hr, ?v, rfl, State.fresh_pc_toNat hc, rfl, rfl, rfl, List.length_replicate,
    fun _ => List.eq_of_mem_replicate, Frame.blank_wf c, Frame.pixel_blank c, ?keys, rfl, rfl, rfl, rfl, rfl, rfl,
    fun _ hk => read_loadRom hr hk, read_constructed_font hc hr, fun _ => read_constructed_zero hc hr⟩
  case v => exact fun r => Vector.getElem_replicate r.isLt
  case keys => exact fun k => Vector.getElem_replicate k.isLt

end Sys2Proof.Machine
end

section
/-! PROOFS. Memory (spec/20_memory.md): the laws of one write (O42), what a fetch reads of stored bytes (O57), that
every step keeps the canonical form (O43), and that every step answers a next state (O39). -/
namespace Sys2Proof.Machine

/-! ### A second write to an address (R72) -/

/-- Erasing an address that was just inserted leaves what erasing it before would have. -/
theorem Memory.erase_insert_self (m : Memory) (a : Nat) (b : Byte) :
    (Memory.insert m a b).erase a = m.erase a := by
  induction m with
  | nil => simp [Memory.insert, Memory.erase]
  | cons c rest ih =>
    obtain ⟨j, d⟩ := c
    unfold Memory.erase at ih ⊢
    by_cases hlt : a < j
    · simp [Memory.insert, hlt]
    · simp [Memory.insert, hlt, List.filter_cons, ih]

theorem Memory.erase_write_self (m : Memory) (n a : Nat) (b : Byte) :
    (m.write n a b).erase (a % n) = m.erase (a % n) := by
  have herase : (m.erase (a % n)).erase (a % n) = m.erase (a % n) := by simp [Memory.erase]
  unfold Memory.write
  dsimp only
  split
  · exact herase
  · rw [Memory.erase_insert_self, herase]

/-- A write depends on the rest of memory alone. -/
theorem Memory.write_congr {m p : Memory} {n a : Nat} (h : m.erase (a % n) = p.erase (a % n)) (b : Byte) :
    m.write n a b = p.write n a b := by
  unfold Memory.write
  dsimp only
  rw [h]

/-- The second write to an address overwrites the first. -/
theorem Memory.write_write_self (m : Memory) (n a : Nat) (b c : Byte) :
    (m.write n a b).write n a c = m.write n a c :=
  Memory.write_congr (Memory.erase_write_self m n a b) c

/-- Settles O42, one law of a single write for each clause. -/
theorem memoryReadAfterWriteAndWrap : Obligations.MemoryReadAfterWriteAndWrap :=
  fun m n a _ k v w => ⟨Memory.read_write_self m n a v, Memory.read_wrap m n a k, Memory.write_wrap m n a k v,
    Memory.read_write_of_ne m v, Memory.write_write_self m n a v w⟩

section
variable {s t : State} {m : Move} {i : Instr} {l : List Byte}

/-! ### Fetches of stored bytes (R81, R88) -/

theorem State.readByte_of_mod_eq {a b : Nat} (h : a % s.cfg.memSize = b % s.cfg.memSize) :
    s.readByte a = s.readByte b := by
  unfold State.readByte Memory.read
  rw [h]

/-- A byte stored at `I + j` is the high byte of the word fetched there, and the low byte of the one fetched one
address below. -/
theorem State.fetchWord_storeAtIndex (hl : l.length ≤ s.cfg.memSize) {j : Nat} (hj : j < l.length) (pc : Nat) :
    (pc % s.cfg.memSize = (s.i.toNat + j) % s.cfg.memSize →
      ((s.storeAtIndex l).fetchWord pc).toNat / 256 = l[j].toNat) ∧
    ((pc + 1) % s.cfg.memSize = (s.i.toNat + j) % s.cfg.memSize →
      ((s.storeAtIndex l).fetchWord pc).toNat % 256 = l[j].toNat) := by
  have hread {a : Nat} (ha : a % s.cfg.memSize = (s.i.toNat + j) % s.cfg.memSize) :
      (s.storeAtIndex l).readByte a = l[j] :=
    (State.readByte_of_mod_eq (s := s.storeAtIndex l) ha).trans (State.readByte_storeAtIndex hl hj)
  obtain ⟨hhigh, hlow⟩ := State.fetchWord_bytes (s.storeAtIndex l) pc
  exact ⟨fun ha => by rw [hhigh, hread ha], fun ha => by rw [hlow, hread ha]⟩

theorem length_regBlock_le {c : RunConfig} (hc : c.legal = true) (v : Vector Byte Config.numV) (x : Reg) :
    (regBlock v x).length ≤ c.memSize := by
  obtain ⟨-, hsize, -⟩ := RunConfig.legal_memSize hc
  have hx : x.val < 16 := x.isLt
  rw [length_regBlock]
  omega

/-- The three digits of R153 as numbers. -/
theorem map_toNat_decimalDigits (b : Byte) :
    (decimalDigits b).map BitVec.toNat = [b.toNat / 100, b.toNat / 10 % 10, b.toNat % 10] := by
  have := b.isLt
  simp only [decimalDigits, List.map_cons, List.map_nil, BitVec.toNat_ofNat, List.cons.injEq, and_true]
  omega

/-! ### The canonical form (log 10) -/

/-- An instruction changes memory only by a store at `I`, which keeps the form. -/
theorem exec_mem_wf (hn : 0 < s.cfg.memSize) (hm : s.mem.wf s.cfg.memSize) (h : exec i s = .next t) :
    t.mem.wf s.cfg.memSize := by
  cases exec_effect h with
  | store l => exact Memory.writeBytes_wf hn hm _ l
  | ret | skip => simpa using hm
  | _ => exact hm

theorem runCycle_mem_wf (hn : 0 < s.cfg.memSize) (hm : s.mem.wf s.cfg.memSize) (h : runCycle s = .next t) :
    t.mem.wf s.cfg.memSize := by
  obtain ⟨u, hu, rfl⟩ := runCycle_cases h
  rw [State.haltIfStruck_mem]
  exact exec_mem_wf (s := s.fetched s.nextWord) hn hm hu

/-- Of all moves only an instruction cycle reaches memory (R208). -/
theorem Move.effect_mem_wf (hn : 0 < s.cfg.memSize) (hm : s.mem.wf s.cfg.memSize) (h : m.effect s = .next t) :
    t.mem.wf s.cfg.memSize := by
  cases m with
  | instructionCycle =>
    have hcycle := runCycle_mem_wf (s := s.beginCoreStep.spendCycle) (by simpa using hn) (by simpa using hm) h
    simpa using hcycle
  | _ => cases h; simpa using hm

/-! ### No step stops (R71, R101, R190, R192) -/

/-- Every instruction has an effect in every state; FX0A has one whether or not a key is down. -/
theorem exec_answers_next (i : Instr) (s : State) : ∃ t, exec i s = .next t := by
  cases i with
  | ldVxK x =>
    change ∃ t, execLdVxK x s = .next t
    unfold execLdVxK
    split <;> exact ⟨_, rfl⟩
  | _ => exact ⟨_, rfl⟩

theorem runCycle_answers_next (s : State) : ∃ t, runCycle s = .next t := by
  obtain ⟨u, hu⟩ := exec_answers_next (decodeWord s.nextWord) (s.fetched s.nextWord)
  exact ⟨u.haltIfStruck, congrArg haltCheck hu⟩

theorem Move.effect_answers_next (m : Move) (s : State) : ∃ t, m.effect s = .next t := by
  cases m with
  | instructionCycle => exact runCycle_answers_next _
  | _ => exact ⟨_, rfl⟩

end

/-! ### O57, O43 and O39 -/

/-- Settles O57: both instructions store a list at `I`, and the fetch law reads it. -/
theorem fetchSeesStoredBytes : Obligations.FetchSeesStoredBytes := by
  refine ⟨fun x r s t pc hc h hr => ?regs, fun x s t pc j d hc h hd => ?digits⟩
  case regs =>
    cases h
    have hj : r.val < (regBlock s.v x).length := by
      rw [length_regBlock]
      exact Nat.lt_succ_of_le hr
    have hfetch := State.fetchWord_storeAtIndex (length_regBlock_le hc s.v x) hj pc
    rwa [getElem_regBlock] at hfetch
  case digits =>
    cases h
    obtain ⟨-, hsize, -⟩ := RunConfig.legal_memSize hc
    obtain ⟨b, hb, rfl⟩ : ∃ b, (decimalDigits (s.reg x))[j]? = some b ∧ b.toNat = d := by
      rwa [← State.reg, ← map_toNat_decimalDigits, List.getElem?_map, Option.map_eq_some_iff] at hd
    obtain ⟨hj, rfl⟩ := List.getElem?_eq_some_iff.1 hb
    exact State.fetchWord_storeAtIndex (by rw [length_decimalDigits]; omega) hj pc

/-- Settles O43: a round drawn and a move passed over leave memory, a move's effect keeps the form; and canonical
memories are determined by their reads. -/
theorem stepKeepsMemoryCanonical : Obligations.StepKeepsMemoryCanonical := by
  refine ⟨fun s t hc hm h => ?step, fun _ _ _ => Memory.ext_of_read⟩
  obtain ⟨-, hsize, -⟩ := RunConfig.legal_memSize hc
  rw [stepKeepsConfiguration s t h]
  obtain ⟨-, rfl⟩ | ⟨m, rest, -, ⟨-, rfl⟩ | ⟨-, he⟩⟩ := step_cases h
  · exact hm
  · simpa using hm
  · exact Move.effect_mem_wf (s := s.withSchedule rest) (Nat.lt_of_lt_of_le (by decide) hsize) hm he

/-- Settles O39, by what is scheduled: a round is drawn, or the move at the head has its effect or is passed over. -/
theorem stepAlwaysAnswersNext : Obligations.StepAlwaysAnswersNext := by
  intro s
  match hs : s.env.schedule with
  | [] => exact ⟨_, step_empty hs⟩
  | m :: rest =>
    cases he : m.enabled (s.withSchedule rest) with
    | true =>
      rw [step_scheduled hs he]
      exact Move.effect_answers_next m _
    | false => exact ⟨_, step_passed hs he⟩

end Sys2Proof.Machine
end

section
/-! PROOFS. The decoder against the encoder (spec/30_encoding.md R92, R101, R102) and against the table of patterns
(R95, R96): O1 to O4. The facts the rest follows from: encoding what a word decodes to gives the word back, and a word
that matches a row of the table decodes to an instruction of that row. -/
namespace Sys2Proof

section
variable {w m mask : Word} {row : Word × Word} {i j : Instr} {o n : BitVec 4} {k : Byte}

/-! ### Encoding after decoding (R92, R101) -/

theorem Encode.addr_of_op (ho : Decode.op w = o) : Encode.addr o (Decode.nnn w) = w := by
  rw [← ho, Encode.addr_fields]

theorem Encode.xkk_of_fields (ho : Decode.op w = o) (hk : Decode.kk w = k) : Encode.xkk o (Decode.x w) k = w := by
  rw [← ho, ← hk, Encode.xkk_fields]

theorem Encode.xyn_of_fields (ho : Decode.op w = o) (hn : Decode.n w = n) :
    Encode.xyn o (Decode.x w) (Decode.y w) n = w := by
  rw [← ho, ← hn, Encode.xyn_fields]

/-- The rule for one test of a secondary dispatch (R94). -/
theorem encode_ite {c : Prop} [Decidable c] (hi : c → encode i = w) (hj : encode j = w) :
    encode (if c then i else j) = w := by
  split
  · exact hi ‹c›
  · exact hj

theorem encode_family0 : encode (Decode.family0 w) = w :=
  encode_ite Eq.symm <| encode_ite Eq.symm <| encode_ite Eq.symm rfl

theorem encode_family8 (ho : Decode.op w = 0x8#4) : encode (Decode.family8 w) = w := by
  have hn {n : BitVec 4} : Decode.n w = n → Encode.xyn 0x8#4 (Decode.x w) (Decode.y w) n = w :=
    Encode.xyn_of_fields ho
  exact encode_ite hn <| encode_ite hn <| encode_ite hn <| encode_ite hn <| encode_ite hn <| encode_ite hn <|
    encode_ite hn <| encode_ite hn <| encode_ite hn rfl

theorem encode_familyE (ho : Decode.op w = 0xE#4) : encode (Decode.familyE w) = w :=
  encode_ite (Encode.xkk_of_fields ho) <| encode_ite (Encode.xkk_of_fields ho) rfl

theorem encode_familyF (ho : Decode.op w = 0xF#4) : encode (Decode.familyF w) = w := by
  have hk {k : Byte} : Decode.kk w = k → Encode.xkk 0xF#4 (Decode.x w) k = w := Encode.xkk_of_fields ho
  exact encode_ite hk <| encode_ite hk <| encode_ite hk <| encode_ite hk <| encode_ite hk <| encode_ite hk <|
    encode_ite hk <| encode_ite hk <| encode_ite hk rfl

/-- The decoder drops no bit of a word. -/
theorem encode_decodeWord (w : Word) : encode (decodeWord w) = w := by
  unfold decodeWord
  split
  case h_1 => exact encode_family0
  case h_2 ho | h_3 ho | h_11 ho | h_12 ho => exact Encode.addr_of_op ho
  case h_4 ho | h_5 ho | h_7 ho | h_8 ho | h_13 ho => exact Encode.xkk_of_fields ho rfl
  case h_6 ho | h_10 ho => exact encode_ite (Encode.xyn_of_fields ho) rfl
  case h_9 ho => exact encode_family8 ho
  case h_14 ho => exact Encode.xyn_of_fields ho rfl
  case h_15 ho => exact encode_familyE ho
  case h_16 ho => exact encode_familyF ho
  case h_17 => rfl

/-! ### What a match of a row says of the word (R95) -/

/-- Where the mask keeps a whole field, the word has the field of the match value. -/
theorem extractLsb'_of_match {start len : Nat} (h : w &&& mask = m)
    (hm : mask.extractLsb' start len = BitVec.allOnes len) : w.extractLsb' start len = m.extractLsb' start len :=
  calc w.extractLsb' start len
    _ = w.extractLsb' start len &&& mask.extractLsb' start len := by rw [hm, BitVec.and_allOnes]
    _ = m.extractLsb' start len := by rw [← BitVec.extractLsb'_and, h]

/-! ### A word that matches a row decodes to an instruction of that row, mask by mask -/

/-- The rows that fix the whole word. -/
theorem rowOf_decodeWord_of_word (hr : (0xFFFF#16, m) ∈ Decode.patterns) (h : w &&& 0xFFFF#16 = m) :
    Decode.rowOf (decodeWord w) = (0xFFFF#16, m) := by
  have hm : m ∈ [0x0000#16, 0x00E0#16, 0x00EE#16] := by simpa [Decode.patterns] using hr
  obtain rfl : w = m := BitVec.and_allOnes.symm.trans h
  fin_cases hm <;> rfl

/-- The rows that fix the top nibble. -/
theorem rowOf_decodeWord_of_op (hr : (0xF000#16, m) ∈ Decode.patterns) (h : w &&& 0xF000#16 = m) :
    Decode.rowOf (decodeWord w) = (0xF000#16, m) := by
  have hm : m ∈ [0x1000#16, 0x2000#16, 0x3000#16, 0x4000#16, 0x6000#16, 0x7000#16, 0xA000#16, 0xB000#16, 0xC000#16,
      0xD000#16] := by simpa [Decode.patterns] using hr
  have hop : Decode.op w = Decode.op m := extractLsb'_of_match h rfl
  unfold decodeWord
  rw [hop]
  fin_cases hm <;> rfl

/-- The rows that fix the top and the bottom nibble. -/
theorem rowOf_decodeWord_of_op_n (hr : (0xF00F#16, m) ∈ Decode.patterns) (h : w &&& 0xF00F#16 = m) :
    Decode.rowOf (decodeWord w) = (0xF00F#16, m) := by
  have hm : m ∈ [0x5000#16, 0x8000#16, 0x8001#16, 0x8002#16, 0x8003#16, 0x8004#16, 0x8005#16, 0x8006#16, 0x8007#16,
      0x800E#16, 0x9000#16] := by simpa [Decode.patterns] using hr
  have hop : Decode.op w = Decode.op m := extractLsb'_of_match h rfl
  have hn : Decode.n w = Decode.n m := extractLsb'_of_match h rfl
  unfold decodeWord Decode.family8
  rw [hop, hn]
  fin_cases hm <;> rfl

/-- The rows that fix the top nibble and the bottom byte. -/
theorem rowOf_decodeWord_of_op_kk (hr : (0xF0FF#16, m) ∈ Decode.patterns) (h : w &&& 0xF0FF#16 = m) :
    Decode.rowOf (decodeWord w) = (0xF0FF#16, m) := by
  have hm : m ∈ [0xE09E#16, 0xE0A1#16, 0xF007#16, 0xF00A#16, 0xF015#16, 0xF018#16, 0xF01E#16, 0xF029#16, 0xF033#16,
      0xF055#16, 0xF065#16] := by simpa [Decode.patterns] using hr
  have hop : Decode.op w = Decode.op m := extractLsb'_of_match h rfl
  have hkk : Decode.kk w = Decode.kk m := extractLsb'_of_match h rfl
  unfold decodeWord Decode.familyE Decode.familyF
  rw [hop, hkk]
  fin_cases hm <;> rfl

theorem Decode.mask_of_mem_patterns : ∀ row ∈ Decode.patterns,
    row.1 = 0xFFFF#16 ∨ row.1 = 0xF000#16 ∨ row.1 = 0xF00F#16 ∨ row.1 = 0xF0FF#16 := by
  simp [Decode.patterns]

theorem rowOf_decodeWord_of_matchesRow (hr : row ∈ Decode.patterns) (h : Decode.matchesRow w row = true) :
    Decode.rowOf (decodeWord w) = row := by
  obtain ⟨mask, m⟩ := row
  replace h : w &&& mask = m := beq_iff_eq.1 h
  obtain rfl | rfl | rfl | rfl : mask = 0xFFFF#16 ∨ mask = 0xF000#16 ∨ mask = 0xF00F#16 ∨ mask = 0xF0FF#16 :=
    Decode.mask_of_mem_patterns _ hr
  · exact rowOf_decodeWord_of_word hr h
  · exact rowOf_decodeWord_of_op hr h
  · exact rowOf_decodeWord_of_op_n hr h
  · exact rowOf_decodeWord_of_op_kk hr h

/-! ### Recognized and unrecognized words (R95, R96) -/

theorem rowOf_mem_patterns (i : Instr) : Decode.rowOf i ∈ Decode.patterns ∨ ∃ v, i = .unrecognized v := by
  cases i with
  | unrecognized v => exact .inr ⟨v, rfl⟩
  | _ => exact .inl (List.elem_iff.1 rfl)

theorem rowOf_unrecognized_not_mem_patterns (v : Word) : Decode.rowOf (.unrecognized v) ∉ Decode.patterns := by
  simp [Decode.patterns, Decode.rowOf]

open Laws.EncodeRow in
theorem encode_and_mask (i : Instr) : encode i &&& (Decode.rowOf i).1 = (Decode.rowOf i).2 := by
  cases i
  exacts [nop, cls, ret, jp _, call _, seImm _ _, sneImm _ _, seReg _ _, ldImm _ _, addImm _ _, ldReg _ _, orReg _ _,
    andReg _ _, xorReg _ _, addReg _ _, subReg _ _, shr _ _, subn _ _, shl _ _, sneReg _ _, ldI _, jpV0 _, rnd _ _,
    drw _ _ _, skp _, sknp _, ldVxDt _, ldVxK _, ldDtVx _, ldStVx _, addI _, ldF _, ldB _, storeRegs _, loadRegs _,
    unrecognized _]

/-- The row of what a word decodes to matches the word. -/
theorem matchesRow_rowOf_decodeWord (w : Word) : Decode.matchesRow w (Decode.rowOf (decodeWord w)) = true := by
  have h := encode_and_mask (decodeWord w)
  rw [encode_decodeWord] at h
  exact beq_iff_eq.2 h

/-- A word is recognized exactly when it decodes to an instruction of a row of the table. -/
theorem Decode.recognized_iff :
    Decode.recognized w = true ↔ Decode.rowOf (decodeWord w) ∈ Decode.patterns := by
  unfold Decode.recognized
  rw [List.any_eq_true]
  constructor
  · rintro ⟨row, hr, h⟩
    rwa [rowOf_decodeWord_of_matchesRow hr h]
  · exact fun h => ⟨_, h, matchesRow_rowOf_decodeWord w⟩

theorem recognized_eq_false_of_decodeWord {v : Word} (h : decodeWord w = .unrecognized v) :
    Decode.recognized w = false := by
  rw [Bool.eq_false_iff, ne_eq, Decode.recognized_iff, h]
  exact rowOf_unrecognized_not_mem_patterns v

theorem eq_of_decodeWord_unrecognized {v : Word} (h : decodeWord w = .unrecognized v) : v = w :=
  (congrArg encode h).symm.trans (encode_decodeWord w)

theorem decodeWord_of_recognized_eq_false (h : Decode.recognized w = false) : decodeWord w = .unrecognized w := by
  rcases rowOf_mem_patterns (decodeWord w) with hr | ⟨v, hv⟩
  · rw [Decode.recognized_iff.2 hr] at h
    cases h
  · obtain rfl := eq_of_decodeWord_unrecognized hv
    exact hv

theorem Decode.patterns_nodup : Decode.patterns.Nodup := by simp [Decode.patterns]

/-- Every row that matches is the row of the decoded instruction, and the table holds that row once. -/
theorem Decode.length_matching_rows_le_one (w : Word) :
    (Decode.patterns.filter (Decode.matchesRow w)).length ≤ 1 :=
  calc (Decode.patterns.filter (Decode.matchesRow w)).length
    _ = Decode.patterns.countP (Decode.matchesRow w) := List.countP_eq_length_filter.symm
    _ ≤ Decode.patterns.count (Decode.rowOf (decodeWord w)) :=
      List.countP_mono_left fun _ hr h => beq_iff_eq.2 (rowOf_decodeWord_of_matchesRow hr h).symm
    _ ≤ 1 := List.nodup_iff_count_le_one.1 Decode.patterns_nodup _

/-! ### Decoding after encoding (R92, R95, R102) -/

theorem decodeWord_encode (i : Instr) (h : i.wf = true) : decodeWord (encode i) = i := by
  cases i with
  | nop | cls | ret => rfl
  | unrecognized w => exact decodeWord_of_recognized_eq_false ((Bool.not_eq_true' _).mp h)
  | skp | sknp => simp [encode, decodeWord, Decode.familyE]
  | ldVxDt | ldVxK | ldDtVx | ldStVx | addI | ldF | ldB | storeRegs | loadRegs =>
    simp [encode, decodeWord, Decode.familyF]
  | ldReg | orReg | andReg | xorReg | addReg | subReg | shr | subn | shl =>
    simp [encode, decodeWord, Decode.family8]
  | _ => simp [encode, decodeWord]

/-- The two bytes of an instruction, whatever follows them, hold its word, the high byte first (R80, R90). -/
theorem decode_encodeBytes (i : Instr) (rest : List Byte) :
    decode (encodeBytes i ++ rest) = .ok (decodeWord (encode i), rest) :=
  congrArg (fun w => Except.ok (decodeWord w, rest)) BitVec.extractLsb'_append_extractLsb'

theorem decodeWord_wf (w : Word) : (decodeWord w).wf = true := by
  cases h : decodeWord w with
  | unrecognized v =>
    obtain rfl := eq_of_decodeWord_unrecognized h
    exact congrArg not (recognized_eq_false_of_decodeWord h)
  | _ => rfl

end

/-! ### O1 to O4 -/

/-- Settles O1: an instruction's fields are read back off the word it encodes to, and an unrecognized word matches no
row; its two bytes put together are that word. -/
theorem decodeEncodeRoundTrip : Obligations.DecodeEncodeRoundTrip := by
  intro i h
  have hword : decodeWord (encode i) = i := decodeWord_encode i h
  exact ⟨hword, fun rest => by rw [decode_encodeBytes, hword]⟩

/-- Settles O2, by the branches of the decoder: each keeps the digits it tested and the fields it read. -/
theorem encodeDecodeRoundTrip : Obligations.EncodeDecodeRoundTrip :=
  fun w => ⟨decodeWord_wf w, encode_decodeWord w⟩

/-- Settles O3: a row that matches a word is the row of the decoded instruction. -/
theorem decoderAgreesWithMaskTable : Obligations.DecoderAgreesWithMaskTable :=
  fun w => ⟨Decode.length_matching_rows_le_one w,
    fun h => ⟨Decode.recognized_iff.1 h, matchesRow_rowOf_decodeWord w⟩,
    decodeWord_of_recognized_eq_false, recognized_eq_false_of_decodeWord⟩

/-- Settles O4, by running the decoder on the ten words. -/
theorem sampleWordsDecode : Obligations.SampleWordsDecode :=
  ⟨rfl, rfl, rfl, rfl, rfl, rfl, rfl, rfl, rfl, rfl⟩

end Sys2Proof
end

section
/-! PROOFS. The instruction cycle as a step (spec/30_encoding.md R80, R81, R98, R99, R197; spec/60_exceptions.md R206,
R208): what the step that runs one is (O36), how a cycle ends (O37), and the host's placement of a word (O38,
log 16). -/
namespace Sys2Proof.Machine

section
variable {s : State} {w : Word} {rest : List Move}

/-! ### The step that runs a cycle (R98, R208) -/

/-- The step is `exec` of the fetched word on the state after the fetch, field by field, and then the halt check. -/
theorem step_cycle_eq (h : s.cycleNext rest) :
    step s = haltCheck (exec (decodeWord s.nextWord) { s with
      pc := nextPc s.cfg s.pc
      strikes := if s.nextWord = 0x0000#16 then s.strikes + 1 else 0
      env := { s.env with
        schedule := rest, stBefore := s.st, stopCycleLeft := !s.stopReq && s.env.stopCycleLeft } }) := by
  rw [step_cycle h, State.cycleStart_eq, State.fetched_eq]

/-- Decoding the two bytes at PC decodes the fetched word (R81). -/
theorem decodeWord_nextWord {i : Instr}
    (h : decode [s.readByte s.pc.toNat, s.readByte (s.pc.toNat + 1)] = .ok (i, [])) : decodeWord s.nextWord = i := by
  cases h
  rfl

/-- A cycle passed over changes nothing but that the late tick of a halted core lapses (log 6, log 9). -/
theorem passOver_instructionCycle_eq (s : State) :
    Move.instructionCycle.passOver s =
      { s with env := { s.env with lateTick := s.env.lateTick && decide (s.run ≠ .halted) } } := by
  unfold Move.passOver
  by_cases hr : s.run = .halted <;> simp [hr]

/-! ### The end of the cycle (R98, R197) -/

theorem haltCheck_of_not_struck (h : s.strikes ≠ s.cfg.haltStrikes) : haltCheck (.next s) = .next s :=
  congrArg Host.Outcome.next (if_neg h)

theorem haltCheck_of_struck (h : s.strikes = s.cfg.haltStrikes) : haltCheck (.next s) = .next s.halt :=
  congrArg Host.Outcome.next (if_pos h)

/-! ### The placed word (R80, R81; log 16) -/

theorem State.withFetchWord_toNat (s : State) (w : Word) : s.withFetchWord 16 w.toNat = s.placeWord w := by
  have hw : BitVec.ofNat 16 (w.toNat % 2 ^ 16) = w := by
    rw [Nat.mod_eq_of_lt w.isLt, BitVec.ofNat_toNat, BitVec.setWidth_eq]
  exact congrArg s.placeWord hw

theorem State.placeWord_cycleNext (s : State) (w : Word) : (s.placeWord w).cycleNext s.env.schedule :=
  ⟨rfl, rfl, rfl, fun _ => rfl⟩

theorem State.readByte_placeWord (hc : s.cfg.legal = true) :
    (s.placeWord w).readByte s.pc.toNat = w.extractLsb' 8 8 ∧
      (s.placeWord w).readByte (s.pc.toNat + 1) = w.extractLsb' 0 8 := by
  obtain ⟨-, hsize, -⟩ := RunConfig.legal_memSize hc
  have hl : [w.extractLsb' 8 8, w.extractLsb' 0 8].length ≤ s.cfg.memSize := Nat.le_trans (by decide : 2 ≤ 80) hsize
  exact ⟨Memory.read_writeBytes _ _ _ _ hl (j := 0) Nat.zero_lt_two,
    Memory.read_writeBytes _ _ _ _ hl (j := 1) Nat.one_lt_two⟩

theorem State.readByte_placeWord_of_ne {a : Nat} (h0 : a % s.cfg.memSize ≠ s.pc.toNat % s.cfg.memSize)
    (h1 : a % s.cfg.memSize ≠ (s.pc.toNat + 1) % s.cfg.memSize) : (s.placeWord w).readByte a = s.readByte a := by
  refine Memory.read_writeBytes_of_ne _ _ _ _ fun j hj => ?_
  match j, hj with
  | 0, _ => exact h0
  | 1, _ => exact h1

theorem State.nextWord_placeWord (hc : s.cfg.legal = true) : (s.placeWord w).nextWord = w := by
  obtain ⟨hhigh, hlow⟩ := State.readByte_placeWord (w := w) hc
  change (s.placeWord w).readByte s.pc.toNat ++ (s.placeWord w).readByte (s.pc.toNat + 1) = w
  rw [hhigh, hlow]
  exact BitVec.extractLsb'_append_extractLsb'

end

/-! ### O36, O37 and O38 -/

/-- Settles O36, by what is next: a cycle that R208 enables, one that it does not, or nothing. -/
theorem stepRunsDecodedInstruction : Obligations.StepRunsDecodedInstruction := by
  refine ⟨fun s rest i hc hn hi => ?enabled, fun s rest hs hn => ?passed, fun s hs => step_empty hs⟩
  case enabled =>
    refine ⟨nextPc s.cfg s.pc, nextPc_toNat hc s.pc, ?_⟩
    rw [step_cycle_eq hn, decodeWord_nextWord hi]
    simp only [State.nextWord_eq_zero]
  case passed =>
    have hoff : Move.instructionCycle.enabled (s.withSchedule rest) = false :=
      Bool.eq_false_iff.2 (mt (State.cycleNext_iff hs).2 hn)
    rw [step_passed hs hoff, passOver_instructionCycle_eq]
    rfl

/-- Settles O37, by whether the strikes have reached HALT_STRIKES. -/
theorem cycleHaltsAtHaltStrikes : Obligations.CycleHaltsAtHaltStrikes :=
  fun t hc => ⟨haltCheck_of_not_struck,
    fun h => ⟨prevPc t.cfg t.pc, prevPc_toNat hc t.pc, haltCheck_of_struck h⟩⟩

/-- Settles O38: in the state with the word placed a cycle is next, and the word it fetches is the placed one. -/
theorem placedWordRuns : Obligations.PlacedWordRuns := by
  intro s w hc
  obtain ⟨hhigh, hlow⟩ := State.fetchWord_bytes (s.placeWord w) s.pc.toNat
  have hfetch : (s.placeWord w).fetchWord s.pc.toNat = w := State.nextWord_placeWord hc
  rw [hfetch] at hhigh hlow
  refine ⟨nextPc s.cfg s.pc, (s.placeWord w).mem, nextPc_toNat hc s.pc, hhigh.symm, hlow.symm,
    fun a => State.readByte_placeWord_of_ne, ?_⟩
  rw [State.withFetchWord_toNat, step_cycle_eq (State.placeWord_cycleNext s w), State.nextWord_placeWord hc]
  simp [State.placeWord]

end Sys2Proof.Machine
end

section
/-! PROOFS. Control transfer (spec/40_control.md R110 to R118): the no-op and its cycle (O5), return (O6), jumps (O7),
call (O8) and the skips on an immediate (O9) and on a register (O10). -/
namespace Sys2Proof.Machine

/-! ### The encoding clause of every instruction (R92, R95) -/

/-- A well-formed instruction is encoded by its own row of the table. -/
theorem encodedBy_rowOf {i : Instr} (h : i.wf = true) :
    EncodedBy i (Decode.rowOf i).1 (Decode.rowOf i).2 :=
  ⟨encode_and_mask i, decodeWord_encode i h⟩

section
variable {s : State}

/-! ### The no-op's cycle (R98, R110) -/

/-- A cycle that fetches 0x0000 below the halting strike is its fetch. -/
theorem runCycle_of_zero_of_not_struck (hw : s.nextWord = 0x0000#16) (hn : s.strikes + 1 ≠ s.cfg.haltStrikes) :
    runCycle s = .next { s with pc := nextPc s.cfg s.pc, strikes := s.strikes + 1 } := by
  unfold runCycle
  rw [hw]
  exact haltCheck_of_not_struck (s := s.fetched 0x0000#16) hn

/-! ### Return and call (R45, R46, R48, R111, R113) -/

/-- A slot that holds no pushed address, or is none of the stack's, is on top as unwritten. -/
theorem State.topSlot_eq_unwritten (h : ∀ a, s.stack[s.sp]? ≠ some (.pushed a)) : s.topSlot = .unwritten := by
  unfold State.topSlot
  cases hk : s.stack[s.sp]? with
  | none => rfl
  | some k =>
    cases k with
    | unwritten => rfl
    | pushed a => exact absurd hk (h a)

theorem exec_ret_pushed {a : Word} (h : s.stack[s.sp]? = some (.pushed a)) :
    exec .ret s = .next { s with pc := a, sp := spDown s.cfg s.sp } := by
  change Host.Outcome.next (s.pop.2.jump s.pop.1) = _
  rw [State.pop_pushed (State.topSlot_eq h)]
  rfl

theorem exec_ret_unwritten (h : ∀ a, s.stack[s.sp]? ≠ some (.pushed a)) :
    exec .ret s = .next { s with
      pc := Config.unwrittenSlot s.draws, sp := spDown s.cfg s.sp, draws := s.draws + 1 } := by
  change Host.Outcome.next (s.pop.2.jump s.pop.1) = _
  rw [State.pop_unwritten (State.topSlot_eq_unwritten h)]
  rfl

/-- In a stack of the invariant's form a push leaves its address in the slot SP moves to. -/
theorem State.push_stack_self (hl : s.stack.length = s.cfg.stackDepth) (hs : s.sp < s.cfg.stackDepth) (a : Word) :
    (s.push a).stack[spUp s.cfg s.sp]? = some (.pushed a) :=
  List.getElem?_set_self (by rw [hl]; exact spUp_lt hs)

/-! ### Skips on a comparison of bytes (R100, R114 to R117) -/

theorem State.skipIf_beq (s : State) (a b : Byte) :
    s.skipIf (a == b) = { s with pc := if a = b then nextPc s.cfg s.pc else s.pc } := by
  rw [State.skipIf_eq]
  simp only [beq_iff_eq]

theorem State.skipIf_bne (s : State) (a b : Byte) :
    s.skipIf (a != b) = { s with pc := if a = b then s.pc else nextPc s.cfg s.pc } := by
  rw [State.skipIf_eq]
  simp only [bne_iff_ne, ne_eq, ite_not]

end

/-! ### O5 to O10 -/

/-- Settles O5: 0x0000 executes as nothing, so its cycle is the fetch where the strike does not halt the core. -/
theorem nopChangesNothing : Obligations.NopChangesNothing :=
  ⟨encodedBy_rowOf (i := .nop) rfl, fun _ => rfl,
    fun s hc hw hn => ⟨nextPc s.cfg s.pc, nextPc_toNat hc s.pc, runCycle_of_zero_of_not_struck hw hn⟩⟩

/-- Settles O6, by what slot SP holds: a pushed address, or none. -/
theorem retPopsReturnAddress : Obligations.RetPopsReturnAddress :=
  ⟨encodedBy_rowOf (i := .ret) rfl, fun _ => ⟨fun _ => exec_ret_pushed, exec_ret_unwritten⟩⟩

/-- Settles O7, by the values of the two targets. -/
theorem jumpsSetPc : Obligations.JumpsSetPc :=
  fun nnn s => ⟨encodedBy_rowOf (i := .jp nnn) rfl, encodedBy_rowOf (i := .jpV0 nnn) rfl,
    addrOperand nnn, offsetTarget nnn (s.reg v0), addrOperand_toNat nnn, offsetTarget_toNat nnn _, rfl, rfl⟩

/-- Settles O8: the push sets the one slot SP moves to, and the jump leaves the stack. -/
theorem callPushesAndJumps : Obligations.CallPushesAndJumps :=
  fun nnn s => ⟨encodedBy_rowOf (i := .call nnn) rfl,
    addrOperand nnn, spUp s.cfg s.sp, (s.push s.pc).stack, addrOperand_toNat nnn, rfl, rfl, List.length_set ..,
    fun hl hs => State.push_stack_self hl hs s.pc, fun _ hj => List.getElem?_set_ne hj.symm⟩

/-- Settles O9: both skips compare V[X] with KK, for opposite answers. -/
theorem immediateSkips : Obligations.ImmediateSkips :=
  fun x kk s hc => ⟨encodedBy_rowOf (i := .seImm x kk) rfl, encodedBy_rowOf (i := .sneImm x kk) rfl,
    nextPc s.cfg s.pc, nextPc_toNat hc s.pc, congrArg Host.Outcome.next (s.skipIf_beq (s.reg x) kk),
    congrArg Host.Outcome.next (s.skipIf_bne (s.reg x) kk)⟩

/-- Settles O10: both skips compare V[X] with V[Y], for opposite answers. -/
theorem registerSkips : Obligations.RegisterSkips :=
  fun x y s hc => ⟨encodedBy_rowOf (i := .seReg x y) rfl, encodedBy_rowOf (i := .sneReg x y) rfl,
    nextPc s.cfg s.pc, nextPc_toNat hc s.pc, congrArg Host.Outcome.next (s.skipIf_beq (s.reg x) (s.reg y)),
    congrArg Host.Outcome.next (s.skipIf_bne (s.reg x) (s.reg y))⟩

end Sys2Proof.Machine
end

section
/-! PROOFS. Register loads and arithmetic (spec/41_alu.md R130 to R142): loads (O12), the sum with an immediate (O13), the
bitwise operations (O14), the sum and the differences with their flags (O15, O16), the shifts (O17) and the masked draw
(O18). -/
namespace Sys2Proof.Machine

/-! ### The results as numbers (R138 to R141) -/

/-- The difference of two bytes without truncated subtraction: the minuend is raised by 256 first. -/
theorem byte_sub_toNat (a b : Byte) : (a - b).toNat = (a.toNat + 256 - b.toNat) % 256 := by
  have hb := b.isLt
  rw [BitVec.toNat_sub]
  congr 1
  omega

theorem byte_shiftRight_one_toNat (a : Byte) : (a >>> 1).toNat = a.toNat / 2 := by
  rw [BitVec.toNat_ushiftRight, Nat.shiftRight_one]

theorem byte_shiftLeft_one_toNat (a : Byte) : (a <<< 1).toNat = a.toNat * 2 % 256 := by
  rw [BitVec.toNat_shiftLeft, Nat.shiftLeft_eq, pow_one]

/-- The right shift of the flag just written is 0 (D11). -/
theorem lowBitFlag_shiftRight_one_toNat (a : Byte) : (lowBitFlag a >>> 1).toNat = 0 := by
  rw [byte_shiftRight_one_toNat, lowBitFlag_toNat]
  omega

/-- The left shift of the flag just written is 2 or 0 (D11). -/
theorem highBitFlag_shiftLeft_one_toNat (a : Byte) :
    (highBitFlag a <<< 1).toNat = if 128 ≤ a.toNat then 2 else 0 := by
  have ha := a.isLt
  rw [byte_shiftLeft_one_toNat, highBitFlag_toNat]
  split <;> omega

/-! ### The flag written before the result (R130, R139, R141) -/

/-- The write order of the shifts: the flag `f` to VF, then the shift `op` of `V[X]` as it stands after that. -/
def State.flagThenShift (s : State) (x : Reg) (f : Byte) (op : Byte → Byte) : State :=
  (s.setReg vf f).setReg x (op ((s.setReg vf f).reg x))

theorem exec_shr (x y : Reg) (s : State) :
    exec (.shr x y) s = .next { s with v := (s.flagThenShift x (lowBitFlag (s.reg x)) (· >>> 1)).v } := rfl

theorem exec_shl (x y : Reg) (s : State) :
    exec (.shl x y) s = .next { s with v := (s.flagThenShift x (highBitFlag (s.reg x)) (· <<< 1)).v } := rfl

section
variable (s : State) (f : Byte) (op : Byte → Byte) {x : Reg}

theorem State.flagThenShift_of_ne {r : Reg} (hx : r ≠ x) (hf : r ≠ vf) :
    (s.flagThenShift x f op).v[r] = s.v[r] :=
  (State.reg_setReg_of_ne _ _ hx).trans (State.reg_setReg_of_ne _ _ hf)

theorem State.flagThenShift_self (h : x ≠ vf) : (s.flagThenShift x f op).v[x] = op (s.reg x) :=
  (State.reg_setReg_self ..).trans (congrArg op (State.reg_setReg_of_ne _ _ h))

theorem State.flagThenShift_flag (h : x ≠ vf) : (s.flagThenShift x f op).v[vf] = f :=
  (State.reg_setReg_of_ne _ _ h.symm).trans (State.reg_setReg_self ..)

/-- With `X = F` the shift reads the flag just written (D11). -/
theorem State.flagThenShift_vf : (s.flagThenShift vf f op).v[vf] = op f :=
  (State.reg_setReg_self ..).trans (congrArg op (State.reg_setReg_self ..))

end

/-! ### O12 to O18 -/

/-- Settles O12: each load is one register write. -/
theorem registerLoads : Obligations.RegisterLoads :=
  fun x y kk _ => ⟨encodedBy_rowOf (i := .ldImm x kk) rfl, encodedBy_rowOf (i := .ldReg x y) rfl, rfl, rfl⟩

/-- Settles O13: the sum of two bytes is their sum mod 256. -/
theorem addImmediateWraps : Obligations.AddImmediateWraps :=
  fun x kk s => ⟨encodedBy_rowOf (i := .addImm x kk) rfl, s.reg x + kk, BitVec.toNat_add .., rfl⟩

/-- Settles O14, by the bits of OR, AND and XOR. -/
theorem bitwiseOperations : Obligations.BitwiseOperations :=
  fun x y s => ⟨encodedBy_rowOf (i := .orReg x y) rfl, encodedBy_rowOf (i := .andReg x y) rfl,
    encodedBy_rowOf (i := .xorReg x y) rfl,
    s.reg x ||| s.reg y, s.reg x &&& s.reg y, s.reg x ^^^ s.reg y,
    fun _ _ => ⟨BitVec.getLsbD_or, BitVec.getLsbD_and, BitVec.getLsbD_xor⟩, rfl, rfl, rfl⟩

/-- Settles O15: the sum is taken mod 256, and the flag of 8XY4 says whether it exceeds 255. -/
theorem addSetsCarry : Obligations.AddSetsCarry :=
  fun x y s => ⟨encodedBy_rowOf (i := .addReg x y) rfl,
    s.reg x + s.reg y, carryFlag (s.reg x) (s.reg y), BitVec.toNat_add .., carryFlag_toNat .., rfl⟩

/-- Settles O16: one difference and one flag, with the operands exchanged for 8XY7. -/
theorem subtractionsSetNotBorrow : Obligations.SubtractionsSetNotBorrow :=
  fun x y s => ⟨encodedBy_rowOf (i := .subReg x y) rfl, encodedBy_rowOf (i := .subn x y) rfl,
    ⟨s.reg x - s.reg y, notBorrowFlag (s.reg x) (s.reg y), byte_sub_toNat .., notBorrowFlag_toNat .., rfl⟩,
    ⟨s.reg y - s.reg x, notBorrowFlag (s.reg y) (s.reg x), byte_sub_toNat .., notBorrowFlag_toNat .., rfl⟩⟩

/-- Settles O17: both shifts write the flag first, so `X = F` shifts the flag and any other `X` its own old value. -/
theorem shiftsMoveOneBit : Obligations.ShiftsMoveOneBit := by
  intro x y s
  refine ⟨encodedBy_rowOf (i := .shr x y) rfl, encodedBy_rowOf (i := .shl x y) rfl,
    ⟨_, exec_shr x y s, fun _ => s.flagThenShift_of_ne _ _, fun h => ⟨?_, ?_⟩, ?_⟩,
    ⟨_, exec_shl x y s, fun _ => s.flagThenShift_of_ne _ _, fun h => ⟨?_, ?_⟩, ?_⟩⟩
  · rw [s.flagThenShift_self _ _ h, byte_shiftRight_one_toNat, State.reg]
  · rw [s.flagThenShift_flag _ _ h, lowBitFlag_toNat, State.reg]
  · rintro rfl
    rw [s.flagThenShift_vf, lowBitFlag_shiftRight_one_toNat]
  · rw [s.flagThenShift_self _ _ h, byte_shiftLeft_one_toNat, State.reg]
  · rw [s.flagThenShift_flag _ _ h, highBitFlag_toNat, State.reg]
  · rintro rfl
    rw [s.flagThenShift_vf, highBitFlag_shiftLeft_one_toNat, State.reg]

/-- Settles O18: the draw is masked bit by bit, and only the draw counter moves besides `V[X]`. -/
theorem randomByteIsMasked : Obligations.RandomByteIsMasked :=
  fun x kk s => ⟨encodedBy_rowOf (i := .rnd x kk) rfl,
    Config.randomByte s.draws &&& kk, fun _ _ => BitVec.getLsbD_and, rfl⟩

end Sys2Proof.Machine
end

section
/-! PROOFS. The index register and the memory block instructions (spec/42_index_memory.md R150 to R156): the loads and
sums of I (O19, O21), the stored digits (O22), and the registers stored (O23) and loaded (O24). -/
namespace Sys2Proof.Machine

section
variable {s : State} {x : Reg}

/-! ### What the two stores leave at `I` and elsewhere (R153, R154) -/

theorem State.readByte_storeAtIndex_decimalDigits (hc : s.cfg.legal = true) (b : Byte) {j d : Nat}
    (h : [b.toNat / 100, b.toNat / 10 % 10, b.toNat % 10][j]? = some d) :
    ((s.storeAtIndex (decimalDigits b)).readByte (s.i.toNat + j)).toNat = d := by
  obtain ⟨-, hsize, -⟩ := RunConfig.legal_memSize hc
  rw [← map_toNat_decimalDigits, List.getElem?_map, Option.map_eq_some_iff] at h
  obtain ⟨c, hb, rfl⟩ := h
  obtain ⟨hj, rfl⟩ := List.getElem?_eq_some_iff.1 hb
  rw [State.readByte_storeAtIndex (by rw [length_decimalDigits]; omega) hj]

theorem State.readByte_storeAtIndex_regBlock (hc : s.cfg.legal = true) {r : Reg} (hr : r ≤ x) :
    (s.storeAtIndex (regBlock s.v x)).readByte (s.i.toNat + r.val) = s.v[r] := by
  have hj : r.val < (regBlock s.v x).length := by
    rw [length_regBlock]
    exact Nat.lt_succ_of_le hr
  rw [State.readByte_storeAtIndex (length_regBlock_le hc s.v x) hj, getElem_regBlock, Fin.getElem_fin]

/-- The offsets of the stored block are the numbers of the registers up to `X`. -/
theorem State.readByte_storeAtIndex_regBlock_of_ne {a : Nat}
    (h : ∀ r : Reg, r ≤ x → a % s.cfg.memSize ≠ (s.i.toNat + r.val) % s.cfg.memSize) :
    (s.storeAtIndex (regBlock s.v x)).readByte a = s.readByte a := by
  refine State.readByte_storeAtIndex_of_ne fun j hj => ?_
  rw [length_regBlock] at hj
  exact h ⟨j, Nat.lt_of_lt_of_le hj x.isLt⟩ (Nat.le_of_lt_succ hj)

end

/-! ### O19 and O21 to O24 -/

/-- Settles O19: the operand is zero-extended, and the sum is taken mod 65536. -/
theorem indexLoadsAndAdds : Obligations.IndexLoadsAndAdds :=
  fun nnn x s => ⟨encodedBy_rowOf (i := .ldI nnn) rfl, encodedBy_rowOf (i := .addI x) rfl,
    addrOperand nnn, indexPlus s.i (s.reg x), addrOperand_toNat nnn, indexPlus_toNat s.i _, rfl, rfl⟩

/-- Settles O21, by the value of the glyph's address. -/
theorem indexPointsAtGlyph : Obligations.IndexPointsAtGlyph :=
  fun x s => ⟨encodedBy_rowOf (i := .ldF x) rfl,
    glyphAddr s.cfg.fontBase (s.reg x), glyphAddr_toNat s.cfg.fontBase _, rfl⟩

/-- Settles O22: the stored list is the three digits, and a store leaves every byte it does not name. -/
theorem decimalDigitsAreStored : Obligations.DecimalDigitsAreStored :=
  fun x s hc => ⟨encodedBy_rowOf (i := .ldB x) rfl, (s.storeAtIndex (decimalDigits (s.reg x))).mem, rfl,
    State.readByte_storeAtIndex_decimalDigits hc (s.reg x) (j := 0) rfl,
    State.readByte_storeAtIndex_decimalDigits hc (s.reg x) (j := 1) rfl,
    State.readByte_storeAtIndex_decimalDigits hc (s.reg x) (j := 2) rfl,
    fun _ => State.readByte_storeAtIndex_of_ne (l := decimalDigits (s.reg x))⟩

/-- Settles O23: the stored list is `V0..VX`, and a store leaves every byte it does not name. -/
theorem registersAreStored : Obligations.RegistersAreStored :=
  fun x s hc => ⟨encodedBy_rowOf (i := .storeRegs x) rfl, (s.storeAtIndex (regBlock s.v x)).mem, rfl,
    fun _ => State.readByte_storeAtIndex_regBlock hc, fun _ => State.readByte_storeAtIndex_regBlock_of_ne⟩

/-- Settles O24, by what the loaded block holds at each register. -/
theorem registersAreLoaded : Obligations.RegistersAreLoaded :=
  fun x s => ⟨encodedBy_rowOf (i := .loadRegs x) rfl, s.loadBlock x, rfl, s.getElem_loadBlock x⟩

end Sys2Proof.Machine
end

section
/-! PROOFS. The display (spec/43_display.md R160 to R169): the clear (O25), the draw (O26) and its repetition (O27), the
draw being a run of toggles over the pixels its sprite sets; and what the host reads of the core (O56; R165, R222). -/
namespace Sys2Proof.Machine

section
variable {c : RunConfig} {f : Frame} {d : Draw} {bytes : List Byte} {x0 y0 u w : Nat} {p : Nat × Nat}

/-! ### The pixels a sprite sets (R161, R162) -/

/-- The spec's bit, counted by its weight, is the model's, counted from the most significant. -/
theorem decide_div_two_pow_eq_spriteBit (b : Byte) (k : Nat) :
    decide (b.toNat / 2 ^ (7 - k) % 2 = 1) = spriteBit b k :=
  Nat.testBit_eq_decide_div_mod_eq.symm

theorem spriteSets_eq_rowsBit (bytes : List Byte) (x0 y0 u w : Nat) :
    spriteSets bytes x0 y0 u w = rowsBit bytes x0 y0 u w := by
  rw [rowsBit_eq]
  unfold spriteSets
  cases bytes[w - y0]? with
  | none => simp
  | some b => simp [rowBit, decide_div_two_pow_eq_spriteBit, Bool.and_assoc, Bool.and_left_comm]

/-- A sprite sets pixels of its own eight columns and its own rows only. -/
theorem bounds_of_spriteSets (h : spriteSets bytes x0 y0 u w = true) :
    (x0 ≤ u ∧ u < x0 + 8) ∧ y0 ≤ w ∧ w < y0 + bytes.length := by
  rw [spriteSets_eq_rowsBit, rowsBit_eq] at h
  cases hb : bytes[w - y0]? with
  | none => simp [hb] at h
  | some b =>
    obtain ⟨hlt, -⟩ := List.getElem?_eq_some_iff.1 hb
    simp only [hb, Option.elim_some, rowBit, Bool.and_eq_true, decide_eq_true_eq] at h
    omega

theorem mem_toggledPixels : p ∈ toggledPixels c bytes x0 y0 ↔
    (p.1 < c.screenW ∧ p.2 < c.screenH) ∧ spriteSets bytes x0 y0 p.1 p.2 = true := by
  simp only [toggledPixels, List.mem_filter, List.mem_flatMap, List.mem_map, List.mem_range, Bool.and_eq_true,
    decide_eq_true_eq]
  constructor
  · rintro ⟨-, hset, hscreen⟩
    exact ⟨hscreen, hset⟩
  · rintro ⟨hscreen, hset⟩
    obtain ⟨hu, hw⟩ := bounds_of_spriteSets hset
    exact ⟨⟨p.2 - y0, by omega, p.1 - x0, by omega, by ext <;> simp <;> omega⟩, hset, hscreen⟩

theorem toggledPixels_nodup (c : RunConfig) (bytes : List Byte) (x0 y0 : Nat) :
    (toggledPixels c bytes x0 y0).Nodup := by
  refine List.Nodup.filter _ (List.nodup_flatMap.2 ⟨fun r _ => ?_, List.nodup_range.imp fun hne => ?_⟩)
  · exact List.nodup_range.map fun a b h => Nat.add_left_cancel (congrArg Prod.fst h)
  · rw [Function.onFun, List.disjoint_left]
    simp only [List.mem_map]
    rintro - ⟨k, -, rfl⟩ ⟨j, -, h⟩
    exact hne (Nat.add_left_cancel (congrArg Prod.snd h)).symm

/-- What a draw leaves in each pixel, by the pixels it toggles. -/
theorem Frame.pixel_draw_eq (hf : f.wf c) (bytes : List Byte) (xo yo : Byte) (u w : Nat) :
    (f.draw c bytes xo yo).fb.pixel u w = (f.pixel u w ^^
      decide ((u, w) ∈ toggledPixels c bytes (xo.toNat % c.screenW) (yo.toNat % c.screenH))) := by
  simp [Frame.pixel_draw hf, mem_toggledPixels, spriteSets_eq_rowsBit]

/-! ### A draw is a run of toggles (R161) -/

/-- One toggle of a draw, with both readings of the collision. -/
def Draw.flip (d : Draw) (p : Nat × Nat) : Draw where
  fb := d.fb.toggle p.1 p.2
  anyHit := d.anyHit || d.fb.pixel p.1 p.2
  lastHit := d.fb.pixel p.1 p.2

/-- The pixels one row of a sprite toggles, left to right. -/
def rowPixels (c : RunConfig) (b : Byte) (x0 y : Nat) : List (Nat × Nat) :=
  ((List.range 8).filter fun k => spriteBit b k && decide (x0 + k < c.screenW ∧ y < c.screenH)).map
    fun k => (x0 + k, y)

theorem Draw.row_eq_foldl_flip (c : RunConfig) (d : Draw) (b : Byte) (x0 y : Nat) :
    d.row c b x0 y = (rowPixels c b x0 y).foldl Draw.flip d := by
  rw [rowPixels, List.foldl_map, List.foldl_filter]
  simp only [Bool.and_eq_true, decide_eq_true_eq]
  rfl

/-- On its first row a sprite sets what the first byte says. -/
theorem spriteSets_cons_first (b : Byte) (bytes : List Byte) (x0 y0 : Nat) {k : Nat} (hk : k < 8) :
    spriteSets (b :: bytes) x0 y0 (x0 + k) y0 = spriteBit b k := by
  simp [spriteSets_eq_rowsBit, rowsBit, rowBit, rowsBit_above, hk]

/-- Below its first row a sprite sets what the sprite of the other bytes sets. -/
theorem spriteSets_cons_below (b : Byte) (bytes : List Byte) (x0 u : Nat) (h : y0 < w) :
    spriteSets (b :: bytes) x0 y0 u w = spriteSets bytes x0 (y0 + 1) u w := by
  simp [spriteSets_eq_rowsBit, rowsBit, Nat.ne_of_gt h]

theorem toggledPixels_cons (c : RunConfig) (b : Byte) (bytes : List Byte) (x0 y0 : Nat) :
    toggledPixels c (b :: bytes) x0 y0 = rowPixels c b x0 y0 ++ toggledPixels c bytes x0 (y0 + 1) := by
  unfold toggledPixels rowPixels
  rw [List.length_cons, List.range_succ_eq_map (n := bytes.length), List.flatMap_cons, List.filter_append,
    List.filter_map, List.flatMap_map]
  congr 1
  · refine congrArg _ (List.filter_congr fun k hk => ?_)
    simp only [Function.comp_apply, Nat.add_zero, spriteSets_cons_first b bytes x0 y0 (List.mem_range.1 hk)]
  · simp only [Nat.succ_eq_add_one, Nat.add_comm _ 1, ← Nat.add_assoc]
    refine List.filter_congr fun p hp => ?_
    simp only [List.mem_flatMap, List.mem_map] at hp
    obtain ⟨r, -, k, -, rfl⟩ := hp
    rw [spriteSets_cons_below b bytes x0 (x0 + k) (by omega), Nat.add_comm y0]

theorem Draw.rows_eq_foldl_flip (c : RunConfig) (d : Draw) (bytes : List Byte) (x0 y0 : Nat) :
    d.rows c bytes x0 y0 = (toggledPixels c bytes x0 y0).foldl Draw.flip d := by
  induction bytes generalizing d y0 with
  | nil => rfl
  | cons b bytes ih => rw [Draw.rows, ih, Draw.row_eq_foldl_flip, toggledPixels_cons, List.foldl_append]

/-! ### The collision (R163, R164) -/

/-- A toggle leaves every other pixel. -/
theorem Draw.pixel_flip_of_ne (hd : d.fb.wf c) {q : Nat × Nat} (h : q ≠ p) :
    (d.flip p).fb.pixel q.1 q.2 = d.fb.pixel q.1 q.2 :=
  (Frame.pixel_toggle hd ..).trans (if_neg fun ⟨hx, hy, _⟩ => h (Prod.ext hx hy))

/-- Toggles of different pixels each meet the pixel as it was before all of them: some was on, or the last one was. -/
theorem Draw.foldl_flip_hits (hd : d.fb.wf c) {l : List (Nat × Nat)} (hl : l.Nodup) :
    (l.foldl Draw.flip d).anyHit = (d.anyHit || l.any fun p => d.fb.pixel p.1 p.2) ∧
    (l.foldl Draw.flip d).lastHit = l.getLast?.elim d.lastHit fun p => d.fb.pixel p.1 p.2 := by
  induction l generalizing d with
  | nil => simp
  | cons p l ih =>
    obtain ⟨hp, hl⟩ := List.nodup_cons.1 hl
    have hsame : ∀ q ∈ l, (d.flip p).fb.pixel q.1 q.2 = d.fb.pixel q.1 q.2 :=
      fun q hq => Draw.pixel_flip_of_ne hd (ne_of_mem_of_not_mem hq hp)
    obtain ⟨hany, hlast⟩ := ih (d := d.flip p) (Frame.toggle_wf hd ..) hl
    rw [List.foldl_cons, hany, hlast]
    refine ⟨?_, ?_⟩
    · have htail : (l.any fun q => (d.flip p).fb.pixel q.1 q.2) = l.any fun q => d.fb.pixel q.1 q.2 :=
        by grind
      rw [htail, List.any_cons, ← Bool.or_assoc]
      rfl
    · cases hq : l.getLast? with
      | none => simp [List.getLast?_eq_none_iff.1 hq, Draw.flip]
      | some q => simp [List.getLast?_cons, hq, hsame q (List.mem_of_getLast? hq)]

theorem Frame.draw_anyHit (hf : f.wf c) (bytes : List Byte) (xo yo : Byte) :
    (f.draw c bytes xo yo).anyHit =
      (toggledPixels c bytes (xo.toNat % c.screenW) (yo.toNat % c.screenH)).any fun p => f.pixel p.1 p.2 := by
  rw [Frame.draw, Draw.rows_eq_foldl_flip,
    (Draw.foldl_flip_hits (d := ⟨f, false, false⟩) hf (toggledPixels_nodup ..)).1, Bool.false_or]

theorem Frame.draw_lastHit (hf : f.wf c) (bytes : List Byte) (xo yo : Byte) :
    (f.draw c bytes xo yo).lastHit =
      (toggledPixels c bytes (xo.toNat % c.screenW) (yo.toNat % c.screenH)).getLast?.elim false
        fun p => f.pixel p.1 p.2 := by
  rw [Frame.draw, Draw.rows_eq_foldl_flip,
    (Draw.foldl_flip_hits (d := ⟨f, false, false⟩) hf (toggledPixels_nodup ..)).2]

theorem Frame.draw_collision (hf : f.wf c) (bytes : List Byte) (xo yo : Byte) :
    (f.draw c bytes xo yo).collision c.collisionMode =
      drawCollides c f bytes (xo.toNat % c.screenW) (yo.toNat % c.screenH) := by
  unfold drawCollides
  cases c.collisionMode with
  | any => exact Frame.draw_anyHit hf ..
  | last =>
    refine (Frame.draw_lastHit hf ..).trans ?_
    cases (toggledPixels c bytes (xo.toNat % c.screenW) (yo.toNat % c.screenH)).getLast? <;> rfl

/-- A draw repeated at the same origin gives the frame back (R169). -/
theorem Frame.draw_draw (hf : f.wf c) (bytes : List Byte) (xo yo : Byte) :
    ((f.draw c bytes xo yo).fb.draw c bytes xo yo).fb = f := by
  have hg := Frame.draw_wf hf bytes xo yo
  refine Frame.ext_pixel (Frame.draw_wf hg ..) hf fun u w _ _ => ?_
  rw [Frame.pixel_draw_eq hg, Frame.pixel_draw_eq hf, Bool.xor_assoc, Bool.xor_self, Bool.xor_false]

end

/-! ### ST before the most recent core step (R222; log 11) -/

section
variable {s t : State} {m : Move}

theorem State.haltIfStruck_stBefore (s : State) : s.haltIfStruck.env.stBefore = s.env.stBefore := by
  obtain ⟨-, h⟩ | ⟨-, h⟩ := s.haltIfStruck_cases <;> rw [h]
  rfl

theorem State.spendTick_stBefore (s : State) : s.spendTick.env.stBefore = s.env.stBefore := by
  rw [State.spendTick_env]
  split <;> rfl

theorem runCycle_stBefore (h : runCycle s = .next t) : t.env.stBefore = s.env.stBefore := by
  obtain ⟨u, hu, rfl⟩ := runCycle_cases h
  obtain ⟨-, -, -, -, -, henv⟩ := exec_keeps_control hu
  rw [State.haltIfStruck_stBefore, henv, State.fetched_env]

theorem Move.effect_stBefore (h : m.effect s = .next t) :
    t.env.stBefore = if isCoreStep m = true then s.st else s.env.stBefore := by
  cases m with
  | instructionCycle => rw [runCycle_stBefore h, State.spendCycle_env]; rfl
  | keyWaitEnd => cases h; rw [State.endKeyWait_env]; rfl
  | timerTick => cases h; rw [State.tick_env, State.spendTick_stBefore]; rfl
  | start => cases h; rw [State.start_env]; rfl
  | _ => cases h; rfl

theorem Move.passOver_stBefore (m : Move) (s : State) : (m.passOver s).env.stBefore = s.env.stBefore := by
  obtain h | ⟨-, h⟩ := m.passOver_cases s <;> rw [h]

/-- Which moves are enabled does not depend on what is scheduled (R208). -/
theorem Move.enabled_withSchedule (m : Move) (s : State) (l : List Move) :
    m.enabled (s.withSchedule l) = m.enabled s := by
  cases m <;> rfl

theorem step_stBefore {rest : List Move} (hs : s.env.schedule = m :: rest) (h : step s = .next t) :
    t.env.stBefore = if isCoreStep m = true ∧ m.enabled s = true then s.st else s.env.stBefore := by
  rw [← Move.enabled_withSchedule m s rest]
  cases he : m.enabled (s.withSchedule rest) with
  | false =>
    cases (step_passed hs he).symm.trans h
    rw [Move.passOver_stBefore]
    simp
  | true => simpa using Move.effect_stBefore ((step_scheduled hs he).symm.trans h)

end

/-! ### O25 to O27 and O56 -/

/-- Settles O25: the blank frame has the screen's form, and none of its pixels is on. -/
theorem clearTurnsEveryPixelOff : Obligations.ClearTurnsEveryPixelOff :=
  ⟨encodedBy_rowOf (i := .cls) rfl,
    fun s => ⟨Frame.blank s.cfg, Frame.blank_wf s.cfg, Frame.pixel_blank s.cfg, rfl⟩⟩

/-- Settles O26: the draw toggles the sprite's pixels on the screen, each once, so each collides as it was before. -/
theorem drawXorsSprite : Obligations.DrawXorsSprite := by
  intro x y n s hf
  refine ⟨encodedBy_rowOf (i := .drw x y n) rfl, (s.spriteDraw x y n).fb,
    flagByte ((s.spriteDraw x y n).collision s.cfg.collisionMode), s.spriteBytes n.val,
    ⟨s.length_spriteBytes n.val, fun r => s.getElem?_spriteBytes⟩, Frame.draw_wf hf .., fun u w hu hw => ?_, ?_, rfl⟩
  · rw [Bool.bne_eq_xor, State.spriteDraw, Frame.pixel_draw hf, decide_eq_true ⟨hu, hw⟩, Bool.true_and,
      ← spriteSets_eq_rowsBit]
    rfl
  · rw [flagByte_toNat, State.spriteDraw, Frame.draw_collision hf]
    rfl

/-- Settles O27: the second draw toggles the same pixels back, and meets each as the first one left it. -/
theorem secondDrawRestoresScreen : Obligations.SecondDrawRestoresScreen := by
  intro c f bytes xo yo hf
  have hg := Frame.draw_wf hf bytes xo yo
  refine ⟨Frame.draw_draw hf .., fun u w hoff hon => ?_, fun p hp hoff => ?_⟩
  · have hmem := (Frame.pixel_draw_eq hf bytes xo yo u w).symm.trans hon
    rw [hoff, Bool.false_xor, decide_eq_true_eq] at hmem
    exact (Frame.draw_anyHit hg ..).trans (List.any_eq_true.2 ⟨(u, w), hmem, hon⟩)
  · refine (Frame.draw_lastHit hg ..).trans ?_
    rw [hp, Option.elim_some, Frame.pixel_draw_eq hf, hoff, decide_eq_true (List.mem_of_getLast? hp)]
    rfl

/-- Settles O56: the reads are moves that are always enabled, and only an enabled core step renews the kept ST. -/
theorem hostReadsSeeFrameAndSound : Obligations.HostReadsSeeFrameAndSound := by
  refine ⟨fun s rest => ⟨?_, ?_, ?_⟩, fun _ _ _ _ => step_stBefore, fun s t hs h => ?_⟩
  · exact fun hs => step_scheduled hs rfl
  · exact fun hs => step_scheduled hs rfl
  · exact fun hs => step_scheduled hs rfl
  · cases (step_empty hs).symm.trans h
    rfl

end Sys2Proof.Machine
end

section
/-! PROOFS. Keys and timers (spec/44_keys_timers.md R175 to R184): the skips on a key (O28), the wait for a key at once
(O29) and at its scheduled end (O54), and the timer transfers (O30). -/
namespace Sys2Proof.Machine

section
variable {s : State} {x : Reg} {k : Key}

/-! ### The skip on the opposite condition (R100, R179) -/

theorem State.skipIf_not (s : State) (c : Bool) :
    s.skipIf (!c) = { s with pc := if c = true then s.pc else nextPc s.cfg s.pc } := by
  cases c <;> rfl

/-! ### FX0A, by what the scan of the keys finds (R180) -/

theorem exec_ldVxK_of_some (hk : s.nextPressedKey = some k) : exec (.ldVxK x) s = .next (s.setReg x (keyByte k)) := by
  change execLdVxK x s = _
  rw [execLdVxK, hk]

theorem exec_ldVxK_of_none (hk : s.nextPressedKey = none) : exec (.ldVxK x) s = .next { s with wait := some x } := by
  change execLdVxK x s = _
  rw [execLdVxK, hk]

/-! ### The scheduled end of the wait (R181, R208) -/

/-- The end of the wait is enabled where a running core waits and a key is down. -/
theorem enabled_keyWaitEnd (hr : s.run = .running) (hw : s.wait = some x) (hk : s.nextPressedKey = some k) :
    Move.keyWaitEnd.enabled s = true := by
  simp [Move.enabled, hr, hw, hk]

end

/-! ### O28 to O30 and O54 -/

/-- Settles O29: the scan finds the lowest key down, or finds none and the hold begins. -/
theorem keyWaitTakesLowestKey : Obligations.KeyWaitTakesLowestKey :=
  fun x _ => ⟨encodedBy_rowOf (i := .ldVxK x) rfl,
    fun k hdown hlow => ⟨keyByte k, keyByte_toNat k, exec_ldVxK_of_some (State.nextPressedKey_eq_some.2 ⟨hdown, hlow⟩)⟩,
    fun hup => exec_ldVxK_of_none (State.nextPressedKey_eq_none.2 hup)⟩

/-- Settles O28: both skips look at the key the low 4 bits select, for opposite answers. -/
theorem keySkips : Obligations.KeySkips :=
  fun x s hc => ⟨encodedBy_rowOf (i := .skp x) rfl, encodedBy_rowOf (i := .sknp x) rfl,
    keyIndex (s.reg x), nextPc s.cfg s.pc, keyIndex_val (s.reg x), nextPc_toNat hc s.pc,
    congrArg Host.Outcome.next (s.skipIf_eq (s.keyDown (s.reg x))),
    congrArg Host.Outcome.next (s.skipIf_not (s.keyDown (s.reg x)))⟩

/-- Settles O30: each transfer writes its one register or timer. -/
theorem timerTransfers : Obligations.TimerTransfers :=
  fun x _ => ⟨encodedBy_rowOf (i := .ldVxDt x) rfl, encodedBy_rowOf (i := .ldDtVx x) rfl,
    encodedBy_rowOf (i := .ldStVx x) rfl, rfl, rfl, rfl⟩

/-- Settles O54: the lowest key down enables the scheduled end, whose effect is `endKeyWait` after the step's start. -/
theorem keyWaitEndStoresKey : Obligations.KeyWaitEndStoresKey := by
  intro s rest x k hs hr hw hdown hlow
  have hk : (s.withSchedule rest).nextPressedKey = some k := State.nextPressedKey_eq_some.2 ⟨hdown, hlow⟩
  have hend := State.endKeyWait_eq (s := (s.withSchedule rest).beginCoreStep) hw hk
  exact ⟨keyByte k, keyByte_toNat k,
    (step_scheduled hs (enabled_keyWaitEnd hr hw hk)).trans (congrArg Host.Outcome.next hend)⟩

end Sys2Proof.Machine
end

section
/-! PROOFS. The run states (spec/60_exceptions.md R204 to R208): what the moves of R208 leave of the core, read off once
as `CoreUntouched` for every step that is none of the core's own, and with it the idle core (O11), the halted core
(O48), the key wait (O49), the stop allowance (O52), the scheduled tick (O53) and the run-state table (O55). -/
namespace Sys2Proof.Machine

/-! ### What a step leaves of the core -/

/-- `t` has what only a cycle or the end of a key wait writes as in `s`. -/
structure SameCore (s t : State) : Prop where
  v : t.v = s.v
  i : t.i = s.i
  pc : t.pc = s.pc
  stack : t.stack = s.stack
  sp : t.sp = s.sp
  mem : t.mem = s.mem
  fb : t.fb = s.fb
  strikes : t.strikes = s.strikes
  wait : t.wait = s.wait
  diag : t.diag = s.diag
  draws : t.draws = s.draws

/-- No step of the core has been taken between `s` and `t`: the timers are the same too, no flag of the bookkeeping is
renewed, a pending stop is still pending, and a core that is not idle has kept its run state. -/
structure CoreUntouched (s t : State) : Prop extends SameCore s t where
  dt : t.dt = s.dt
  st : t.st = s.st
  run : s.run ≠ .idle → t.run = s.run
  stopReq : s.stopReq = true → t.stopReq = true
  cycleLeft : t.env.stopCycleLeft = s.env.stopCycleLeft
  tickLeft : t.env.stopTickLeft = s.env.stopTickLeft
  late : t.env.lateTick = true → s.env.lateTick = true

section
variable {s t : State} {m : Move} {rest : List Move}

theorem CoreUntouched.refl (s : State) : CoreUntouched s s :=
  { v := rfl, i := rfl, pc := rfl, stack := rfl, sp := rfl, mem := rfl, fb := rfl, strikes := rfl, wait := rfl,
    diag := rfl, draws := rfl, dt := rfl, st := rfl, run := fun _ => rfl, stopReq := id, cycleLeft := rfl,
    tickLeft := rfl, late := id }

/-- The moves of the host agents leave the core as it is (R204, R206, R210). -/
theorem Move.effect_untouched (hm : isCoreStep m = false) (h : m.effect s = .next t) : CoreUntouched s t := by
  cases m with
  | instructionCycle | keyWaitEnd | timerTick | stopSeen => cases hm
  | start =>
    cases h
    unfold State.start
    split
    case isTrue hi => exact { CoreUntouched.refl s with run := fun hn => absurd hi hn }
    case isFalse => exact CoreUntouched.refl s
  | stop => cases h; exact { CoreUntouched.refl s with run := fun hn => if_neg hn, stopReq := fun _ => rfl }
  | _ => cases h; exact { CoreUntouched.refl s with }

theorem Move.passOver_untouched (m : Move) (s : State) : CoreUntouched s (m.passOver s) := by
  obtain h | ⟨-, h⟩ := m.passOver_cases s <;> rw [h]
  · exact CoreUntouched.refl s
  · exact { CoreUntouched.refl s with late := nofun }

/-- A step leaves the core as it is, or it is one of the core's four that R208 enables. -/
theorem step_untouched_or_core (h : step s = .next t) :
    CoreUntouched s t ∨ ∃ m rest, s.env.schedule = m :: rest ∧ isCoreStep m = true ∧ m.enabled s = true ∧
      m.effect (s.withSchedule rest) = .next t := by
  obtain ⟨-, rfl⟩ | ⟨m, rest, hs, ⟨-, rfl⟩ | ⟨he, ht⟩⟩ := step_cases h
  · exact .inl { CoreUntouched.refl s with }
  · exact .inl { m.passOver_untouched (s.withSchedule rest) with }
  · cases hm : isCoreStep m with
    | false => exact .inl { Move.effect_untouched hm ht with }
    | true => exact .inr ⟨m, rest, hs, hm, (m.enabled_withSchedule s rest).symm.trans he, ht⟩

/-! ### Which of the core's steps R208 enables -/

theorem Move.not_enabled_of_idle (hr : s.run = .idle) (hm : isCoreStep m = true) : m.enabled s = false := by
  cases m with
  | instructionCycle | keyWaitEnd | timerTick | stopSeen => simp [Move.enabled, hr]
  | _ => cases hm

/-- A halted core is left the late tick alone (R207). -/
theorem Move.enabled_of_halted (hr : s.run = .halted) (hm : isCoreStep m = true) (he : m.enabled s = true) :
    m = .timerTick ∧ s.env.lateTick = true := by
  cases m with
  | instructionCycle | keyWaitEnd | timerTick | stopSeen => simp_all [Move.enabled]
  | _ => cases hm

/-- A core that waits for a key is left the end of the wait alone, once a key is down (R181, R214). -/
theorem Move.enabled_of_waiting {x : Reg} (hr : s.run = .running) (hw : s.wait = some x) (hm : isCoreStep m = true)
    (he : m.enabled s = true) : m = .keyWaitEnd ∧ ∃ k, s.nextPressedKey = some k := by
  cases m with
  | instructionCycle | keyWaitEnd | timerTick | stopSeen => simp_all [Move.enabled, Option.isSome_iff_exists]
  | _ => cases hm

/-- A core with a stop pending and no key wait is left the cycle and the tick of the allowance, and the stop (R206). -/
theorem Move.enabled_of_stopping (hr : s.run = .running) (hw : s.wait = none) (hq : s.stopReq = true)
    (hm : isCoreStep m = true) (he : m.enabled s = true) :
    (m = .instructionCycle ∧ s.env.stopCycleLeft = true) ∨ (m = .timerTick ∧ s.env.stopTickLeft = true) ∨
      m = .stopSeen := by
  cases m with
  | instructionCycle | keyWaitEnd | timerTick | stopSeen => simp_all [Move.enabled]
  | _ => cases hm

/-! ### The timer tick (R213) -/

/-- The late tick (R207). -/
theorem effect_timerTick_of_halted (hr : s.run = .halted) :
    Move.timerTick.effect s = .next { s with
      dt := tickDown s.dt, st := tickDown s.st, env := { s.env with stBefore := s.st, lateTick := false } } := by
  have hspend : s.beginCoreStep.spendTick =
      { s with env := { s.env with stBefore := s.st, lateTick := false } } := if_pos hr
  exact congrArg (Host.Outcome.next ∘ State.tick) hspend

/-- A tick of a running core, which after a stop uses the allowance up (R206). -/
theorem effect_timerTick_of_running (hr : s.run = .running) :
    Move.timerTick.effect s = .next { s with
      dt := tickDown s.dt, st := tickDown s.st
      env := { s.env with stBefore := s.st, stopTickLeft := !s.stopReq && s.env.stopTickLeft } } := by
  have hspend : s.beginCoreStep.spendTick =
      { s with env := { s.env with stBefore := s.st, stopTickLeft := !s.stopReq && s.env.stopTickLeft } } := by
    cases hq : s.stopReq <;> simp [State.spendTick, State.beginCoreStep, hr, hq]
  exact congrArg (Host.Outcome.next ∘ State.tick) hspend

theorem step_timerTick_of_running (hs : s.env.schedule = .timerTick :: rest) (hr : s.run = .running)
    (hw : s.wait = none) (hl : s.stopReq = true → s.env.stopTickLeft = true) :
    step s = .next { s with
      dt := tickDown s.dt, st := tickDown s.st
      env := { s.env with
        schedule := rest, stBefore := s.st, stopTickLeft := !s.stopReq && s.env.stopTickLeft } } := by
  have hon : Move.timerTick.enabled s = true := by cases hq : s.stopReq <;> simp_all [Move.enabled]
  exact (step_scheduled hs hon).trans (effect_timerTick_of_running (s := s.withSchedule rest) hr)

end

/-! ### O11 and O48 -/

/-- Of the moves that an idle core allows, start and stop alone end its idleness (R204). -/
theorem step_run_of_idle {s t : State} (hr : s.run = .idle) (h : step s = .next t) :
    (t.run = .idle ∧ t.stopReq = s.stopReq) ∨
      (∃ rest, s.env.schedule = .start :: rest ∧ t.run = .running ∧ t.stopReq = s.stopReq) ∨
      (∃ rest, s.env.schedule = .stop :: rest ∧ t.run = .halted ∧ t.stopReq = true) := by
  obtain ⟨-, rfl⟩ | ⟨m, rest, hs, ⟨-, rfl⟩ | ⟨he, ht⟩⟩ := step_cases h
  · exact .inl ⟨hr, rfl⟩
  · exact .inl ⟨by simpa using hr, by simp⟩
  cases m with
  | instructionCycle | keyWaitEnd | timerTick | stopSeen =>
    cases he.symm.trans (Move.not_enabled_of_idle (s := s.withSchedule rest) hr rfl)
  | start => cases ht; exact .inr (.inl ⟨rest, hs, by simp [State.start_run, hr], by simp⟩)
  | stop => cases ht; exact .inr (.inr ⟨rest, hs, by simp [hr], rfl⟩)
  | _ => cases ht; exact .inl ⟨hr, rfl⟩

/-- Settles O11: none of the core's steps is enabled in an idle core, so every step leaves it untouched. -/
theorem idleCoreRunsNothing : Obligations.IdleCoreRunsNothing := by
  intro s t hr h
  obtain hu | ⟨m, rest, -, hm, he, -⟩ := step_untouched_or_core h
  · exact ⟨hu.v, hu.i, hu.pc, hu.dt, hu.st, hu.stack, hu.sp, hu.mem, hu.fb, hu.strikes, hu.wait, hu.diag, hu.draws,
      step_run_of_idle hr h⟩
  · cases he.symm.trans (Move.not_enabled_of_idle hr hm)

/-- Settles O48: the one step a halted core is left is the late tick, which uses itself up. -/
theorem haltedIsTerminal : Obligations.HaltedIsTerminal := by
  intro s t hr h
  obtain hu | ⟨m, rest, -, hm, he, ht⟩ := step_untouched_or_core h
  · exact ⟨(hu.run (by rw [hr]; nofun)).trans hr, hu.v, hu.i, hu.pc, hu.stack, hu.sp, hu.mem, hu.fb, hu.strikes,
      hu.wait, hu.diag, hu.draws, .inl ⟨hu.dt, hu.st, hu.late⟩⟩
  · obtain ⟨rfl, hlate⟩ := Move.enabled_of_halted hr hm he
    cases (effect_timerTick_of_halted (s := s.withSchedule rest) hr).symm.trans ht
    exact ⟨hr, rfl, rfl, rfl, rfl, rfl, rfl, rfl, rfl, rfl, rfl, rfl,
      .inr ⟨hlate, rfl, tickDown_toNat s.dt, tickDown_toNat s.st⟩⟩

/-! ### O49 -/

/-- Settles O49: the one step a waiting core is left is the end of the wait, which stores the lowest key down. -/
theorem keyWaitHoldsTheCore : Obligations.KeyWaitHoldsTheCore := by
  intro s t x hr hw h
  obtain hu | ⟨m, rest, -, hm, he, ht⟩ := step_untouched_or_core h
  · exact ⟨(hu.run (by rw [hr]; nofun)).trans hr, hu.dt, hu.st, hu.i, hu.pc, hu.stack, hu.sp, hu.mem, hu.fb,
      hu.strikes, hu.diag, hu.draws, hu.stopReq, hu.cycleLeft, hu.tickLeft, .inl ⟨hu.wait.trans hw, hu.v⟩⟩
  · obtain ⟨rfl, k, hk⟩ := Move.enabled_of_waiting hr hw hm he
    obtain ⟨hdown, hlow⟩ := State.nextPressedKey_eq_some.1 hk
    cases ht
    rw [State.endKeyWait_eq (s := (s.withSchedule rest).beginCoreStep) hw hk]
    exact ⟨hr, rfl, rfl, rfl, rfl, rfl, rfl, rfl, rfl, rfl, rfl, rfl, id, rfl, rfl,
      .inr ⟨k, keyByte k, hdown, hlow, keyByte_toNat k, rfl, rfl⟩⟩

/-! ### O53 and O55 -/

section
variable {s : State} {rest : List Move}

/-- A stop that is seen halts the core (R206). -/
theorem step_stopSeen (hs : s.env.schedule = .stopSeen :: rest) (hr : s.run = .running) (hw : s.wait = none)
    (hq : s.stopReq = true) :
    step s = .next { s with
      run := .halted, env := { s.env with schedule := rest, stBefore := s.st, lateTick := true } } :=
  step_scheduled hs (by simp [Move.enabled, hr, hw, hq])

/-- In a core that has not halted a move that is not enabled is taken off the schedule, and that is all (log 6). -/
theorem step_passed_of_not_halted {m : Move} (hs : s.env.schedule = m :: rest) (hr : s.run ≠ .halted)
    (he : m.enabled s = false) : step s = .next { s with env := { s.env with schedule := rest } } := by
  have hsame : m.passOver (s.withSchedule rest) = s.withSchedule rest := Move.passOver_of_not_halted hr
  rw [step_passed hs ((m.enabled_withSchedule s rest).trans he), hsame]
  rfl

theorem State.start_eq (s : State) : s.start = { s with run := if s.run = .idle then .running else s.run } := by
  unfold State.start
  split <;> rfl

/-- A tick that is not enabled is passed over, in a halted core as well. -/
theorem step_timerTick_passed (hs : s.env.schedule = .timerTick :: rest) (he : Move.timerTick.enabled s = false) :
    step s = .next { s with env := { s.env with schedule := rest } } :=
  step_passed hs he

end

/-- Settles O55, row by row: start and stop are always enabled, and the check of the stop where R206 says. -/
theorem runStateTransitions : Obligations.RunStateTransitions := by
  refine fun s rest => ⟨fun hs => ?start, fun hs => step_scheduled hs rfl, step_stopSeen, fun hs hr hoff => ?passed⟩
  case start =>
    rw [step_scheduled hs rfl]
    exact congrArg Host.Outcome.next (s.withSchedule rest).start_eq
  case passed =>
    refine step_passed_of_not_halted hs (by rw [hr]; nofun) ?_
    obtain hw | hq := hoff
    · simp [Move.enabled, hw]
    · simp [Move.enabled, hq]

/-- Settles O53, by where R208 enables a tick: a running core, with or without a stop, and the late tick. -/
theorem timerTickLowersTimers : Obligations.TimerTickLowersTimers := by
  refine fun s rest hs => ⟨⟨tickDown s.dt, tickDown s.st, tickDown_toNat s.dt, tickDown_toNat s.st,
    fun hr hw hq => ?running, fun hr hw hq hl => ?stopping, fun hr hl => ?halted⟩, fun hoff => ?passed⟩
  case running => simpa [hq] using step_timerTick_of_running hs hr hw (by simp [hq])
  case stopping => simpa [hq] using step_timerTick_of_running hs hr hw fun _ => hl
  case halted =>
    exact (step_scheduled hs (by simp [Move.enabled, hr, hl])).trans (effect_timerTick_of_halted hr)
  case passed =>
    refine step_timerTick_passed hs ?_
    obtain ⟨hr, hw⟩ | ⟨hr, hq, hl⟩ | hr | ⟨hr, hl⟩ := hoff
    · simp [Move.enabled, hr, hw]
    · simp [Move.enabled, hr, hq, hl]
    · simp [Move.enabled, hr]
    · simp [Move.enabled, hr, hl]

/-! ### O52 -/

section
variable {s t : State} {rest : List Move}

/-- A cycle writes no bookkeeping but the late tick of a halt. -/
theorem runCycle_env (h : runCycle s = .next t) : ∃ b, t.env = { s.env with lateTick := b } := by
  obtain ⟨u, hu, rfl⟩ := runCycle_cases h
  obtain ⟨-, -, -, -, -, henv⟩ := exec_keeps_control hu
  obtain ⟨-, hend⟩ | ⟨-, hend⟩ := u.haltIfStruck_cases
  · exact ⟨s.env.lateTick, by rw [hend, henv]; rfl⟩
  · exact ⟨true, by rw [hend, State.halt_env, henv]; rfl⟩

theorem runCycle_stopReq (h : runCycle s = .next t) : t.stopReq = s.stopReq := by
  obtain ⟨u, hu, rfl⟩ := runCycle_cases h
  obtain ⟨-, -, -, hstop, -, -⟩ := exec_keeps_control hu
  rw [State.haltIfStruck_stopReq, hstop, State.fetched_stopReq]

/-- A cycle keeps the stop flag, and after a stop it uses up the cycle of the allowance alone (R206). -/
theorem effect_instructionCycle_allowance (h : Move.instructionCycle.effect s = .next t) :
    t.stopReq = s.stopReq ∧ t.env.stopCycleLeft = (!s.stopReq && s.env.stopCycleLeft) ∧
      t.env.stopTickLeft = s.env.stopTickLeft := by
  obtain ⟨b, henv⟩ := runCycle_env h
  rw [runCycle_stopReq h, henv, State.spendCycle_env]
  exact ⟨State.spendCycle_stopReq s.beginCoreStep, rfl, rfl⟩

/-- With a stop pending and no key wait: the stop stays pending, a used allowance is not renewed, and each part of the
core is written only by what the allowance still holds (R206). -/
theorem step_of_stopping (hr : s.run = .running) (hw : s.wait = none) (hq : s.stopReq = true) (h : step s = .next t) :
    t.stopReq = true ∧ (s.env.stopCycleLeft = false → t.env.stopCycleLeft = false ∧ SameCore s t) ∧
      (s.env.stopTickLeft = false → t.env.stopTickLeft = false) ∧
      (s.env.stopCycleLeft = false → s.env.stopTickLeft = false → t.dt = s.dt ∧ t.st = s.st) := by
  obtain hu | ⟨m, rest, hs, hm, he, ht⟩ := step_untouched_or_core h
  · exact ⟨hu.stopReq hq, fun hc => ⟨hu.cycleLeft.trans hc, hu.toSameCore⟩, hu.tickLeft.trans,
      fun _ _ => ⟨hu.dt, hu.st⟩⟩
  obtain ⟨rfl, hc⟩ | ⟨rfl, hl⟩ | rfl := Move.enabled_of_stopping hr hw hq hm he
  · obtain ⟨hstop, -, htick⟩ := effect_instructionCycle_allowance ht
    exact ⟨hstop.trans hq, fun hn => (nomatch hc.symm.trans hn), htick.trans, fun hn => (nomatch hc.symm.trans hn)⟩
  · cases (step_timerTick_of_running hs hr hw fun _ => hl).symm.trans h
    exact ⟨hq, fun hc => ⟨hc, { CoreUntouched.refl s with }⟩, fun hn => (nomatch hl.symm.trans hn),
      fun _ hn => (nomatch hl.symm.trans hn)⟩
  · cases ht
    exact ⟨hq, fun hc => ⟨hc, { CoreUntouched.refl s with }⟩, id, fun _ _ => ⟨rfl, rfl⟩⟩

/-- A cycle scheduled after a stop leaves no cycle of the allowance. -/
theorem step_cycle_of_stopping (hs : s.env.schedule = .instructionCycle :: rest) (hr : s.run = .running)
    (hw : s.wait = none) (hq : s.stopReq = true) (h : step s = .next t) : t.env.stopCycleLeft = false := by
  obtain ⟨-, hused, -, -⟩ := step_of_stopping hr hw hq h
  cases hc : s.env.stopCycleLeft with
  | false => exact (hused hc).1
  | true =>
    have hon := (State.cycleNext_iff hs).1 ⟨hs, hr, hw, fun _ => hc⟩
    obtain ⟨-, hspent, -⟩ := effect_instructionCycle_allowance ((step_scheduled hs hon).symm.trans h)
    simpa [hq] using hspent

/-- A tick scheduled after a stop leaves no tick of the allowance. -/
theorem step_tick_of_stopping (hs : s.env.schedule = .timerTick :: rest) (hr : s.run = .running)
    (hw : s.wait = none) (hq : s.stopReq = true) (h : step s = .next t) : t.env.stopTickLeft = false := by
  obtain ⟨-, -, hused, -⟩ := step_of_stopping hr hw hq h
  cases hl : s.env.stopTickLeft with
  | false => exact hused hl
  | true =>
    cases (step_timerTick_of_running hs hr hw fun _ => hl).symm.trans h
    simp [hq]

end

/-- Settles O52: what the allowance no longer holds is not run, and a scheduled cycle, tick or check of the stop does
what R206 says of it. -/
theorem stopAllowsOneCycleOneTick : Obligations.StopAllowsOneCycleOneTick := by
  intro s t hr hw hq h
  obtain ⟨hstop, hcycle, htick, htimers⟩ := step_of_stopping hr hw hq h
  refine ⟨hstop, fun _ hs => step_cycle_of_stopping hs hr hw hq h, fun _ hs => step_tick_of_stopping hs hr hw hq h,
    fun hc => ?core, htick, htimers, fun rest hs => ?seen⟩
  case core =>
    obtain ⟨hused, hsame⟩ := hcycle hc
    exact ⟨hused, hsame.v, hsame.i, hsame.pc, hsame.stack, hsame.sp, hsame.mem, hsame.fb, hsame.strikes, hsame.diag,
      hsame.draws, hsame.wait⟩
  case seen =>
    cases (step_stopSeen hs hr hw hq).symm.trans h
    rfl

end Sys2Proof.Machine
end

section
/-! PROOFS. Reports and the heuristic halt (spec/60_exceptions.md R193 to R199): the unrecognized word (O31), the one
event of a step (O46) and the run of 0x0000 words (O51). -/
namespace Sys2Proof.Machine

/-- Settles O31: the report is the whole effect, and the address is two bytes before PC. -/
theorem unrecognizedIsReportedNop : Obligations.UnrecognizedIsReportedNop :=
  fun _ s hc => ⟨prevPc s.cfg s.pc, prevPc_toNat hc s.pc, rfl⟩

section
variable {s t u : State} {rest : List Move}

/-! ### The event of a cycle (R194, R197) -/

/-- The execute phase reports the fetched word if it is unrecognized, and nothing else. -/
theorem exec_fetched_diag (h : exec (decodeWord s.nextWord) (s.fetched s.nextWord) = .next t) :
    t.diag = s.diag ∨ (decodeWord s.nextWord = .unrecognized s.nextWord ∧
      t.diag = s.diag ++ [.unrecognized s.nextWord (prevPc s.cfg (nextPc s.cfg s.pc))]) := by
  by_cases hw : decodeWord s.nextWord = .unrecognized s.nextWord
  · rw [hw] at h
    cases h
    exact .inr ⟨hw, rfl⟩
  · refine .inl (exec_diag (s := s.fetched s.nextWord) h fun w hi => hw ?_)
    rwa [eq_of_decodeWord_unrecognized hi] at hi

/-- The halting strike is of the word 0x0000, which executes as nothing. -/
theorem exec_fetched_of_struck (hc : s.cfg.legal = true)
    (h : exec (decodeWord s.nextWord) (s.fetched s.nextWord) = .next t) (hst : t.strikes = t.cfg.haltStrikes) :
    s.nextWord = 0x0000#16 ∧ s.strikes + 1 = s.cfg.haltStrikes ∧ t = s.fetched s.nextWord := by
  obtain ⟨-, -, hstrikes, -, hcfg, -⟩ := exec_keeps_control h
  rw [hstrikes, hcfg] at hst
  have hz := word_eq_zero_of_struck hc hst
  refine ⟨hz, ?_, ?_⟩
  · rwa [State.fetched_strikes, if_pos hz] at hst
  · rw [hz] at h ⊢
    cases h
    rfl

/-- A cycle reports at most one event: the fetched word, or the halt on it. -/
theorem runCycle_diag (hc : s.cfg.legal = true) (h : runCycle s = .next t) :
    t.diag = s.diag ∨
      (t.diag = s.diag ++ [.unrecognized s.nextWord (prevPc s.cfg (nextPc s.cfg s.pc))] ∧
        decodeWord s.nextWord = .unrecognized s.nextWord) ∨
      (t.diag = s.diag ++ [.halt (prevPc s.cfg (nextPc s.cfg s.pc))] ∧ s.nextWord = 0x0000#16 ∧
        s.strikes + 1 = s.cfg.haltStrikes ∧ t.run = .halted) := by
  obtain ⟨u, hu, rfl⟩ := runCycle_cases h
  obtain ⟨-, hend⟩ | ⟨hst, hend⟩ := u.haltIfStruck_cases
  · rw [hend]
    obtain hd | ⟨hw, hd⟩ := exec_fetched_diag hu
    · exact .inl hd
    · exact .inr (.inl ⟨hd, hw⟩)
  · obtain ⟨hz, hs, rfl⟩ := exec_fetched_of_struck hc hu hst
    rw [hend]
    exact .inr (.inr ⟨rfl, hz, hs, rfl⟩)

/-! ### A cycle that fetches 0x0000 (R196, R197) -/

/-- Such a cycle is its fetch and the halt check. -/
theorem step_zero_word (h : s.cycleNext rest) (hq : s.stopReq = false) (hw : s.nextWord = 0x0000#16) :
    step s = haltCheck (.next { s with
      pc := nextPc s.cfg s.pc, strikes := s.strikes + 1
      env := { s.env with schedule := rest, stBefore := s.st } }) := by
  rw [step_cycle_eq h, hw]
  simp only [hq, Bool.not_false, Bool.true_and, if_true]
  rfl

/-- A run grows by a step at its end. -/
theorem run_snoc {n : Nat} (hn : Sys2Proof.core.run n s = .next u) (h : step u = .next t) :
    Sys2Proof.core.run (n + 1) s = .next t := by
  rw [run_add hn, run_succ h]
  rfl

/-! ### The run of 0x0000 words -/

/-- `s` after `k` cycles that fetched 0x0000, with PC and the bookkeeping where they have moved. -/
def State.afterZeroWords (s : State) (k : Nat) (p : Word) (e : Env) : State :=
  { s with pc := p, strikes := k, env := e }

/-- PC has moved over `k` words, and the cycles that are left to reach HALT_STRIKES are scheduled. -/
structure ZeroWordsPassed (s : State) (rest : List Move) (k : Nat) (p : Word) (e : Env) : Prop where
  pc : p.toNat % s.cfg.memSize = (s.pc.toNat + 2 * k) % s.cfg.memSize
  schedule : e.schedule = List.replicate (s.cfg.haltStrikes - k) .instructionCycle ++ rest

end

/-- The core runs with no key wait and no stop, and the 2 * HALT_STRIKES bytes at PC are zero. -/
structure State.ZerosAhead (s : State) : Prop where
  legal : s.cfg.legal = true
  run : s.run = .running
  wait : s.wait = none
  stopReq : s.stopReq = false
  zero : ∀ j < 2 * s.cfg.haltStrikes, s.readByte (s.pc.toNat + j) = 0

section
variable {s : State} {rest : List Move} {k : Nat} {p : Word} {e : Env}

/-- Below HALT_STRIKES the word at the PC reached is 0x0000. -/
theorem ZeroWordsPassed.nextWord (hz : s.ZerosAhead) (h : ZeroWordsPassed s rest k p e) (hk : k < s.cfg.haltStrikes) :
    (s.afterZeroWords k p e).nextWord = 0x0000#16 := by
  have hread : ∀ j < 2, s.readByte (p.toNat + j) = 0 := fun j hj => by
    have hmod : (p.toNat + j) % s.cfg.memSize = (s.pc.toNat + (2 * k + j)) % s.cfg.memSize := by
      rw [← Nat.add_assoc, Nat.add_mod, h.pc, ← Nat.add_mod]
    rw [State.readByte_of_mod_eq hmod]
    exact hz.zero _ (by omega)
  exact State.nextWord_eq_zero.2 ⟨hread 0 Nat.zero_lt_two, hread 1 Nat.one_lt_two⟩

theorem ZeroWordsPassed.cycleNext (hz : s.ZerosAhead) (h : ZeroWordsPassed s rest k p e) (hk : k < s.cfg.haltStrikes) :
    (s.afterZeroWords k p e).cycleNext (List.replicate (s.cfg.haltStrikes - (k + 1)) .instructionCycle ++ rest) := by
  refine ⟨h.schedule.trans ?_, hz.run, hz.wait, fun hq => nomatch hz.stopReq.symm.trans hq⟩
  have hleft : s.cfg.haltStrikes - k = s.cfg.haltStrikes - (k + 1) + 1 := by omega
  rw [hleft, List.replicate_succ, List.cons_append]

/-- One cycle more passes one word more, and the halt check follows. -/
theorem ZeroWordsPassed.step (hz : s.ZerosAhead) (h : ZeroWordsPassed s rest k p e) (hk : k < s.cfg.haltStrikes) :
    ∃ e', step (s.afterZeroWords k p e) = haltCheck (.next (s.afterZeroWords (k + 1) (nextPc s.cfg p) e')) ∧
      ZeroWordsPassed s rest (k + 1) (nextPc s.cfg p) e' := by
  refine ⟨_, step_zero_word (h.cycleNext hz hk) hz.stopReq (h.nextWord hz hk), ?_, rfl⟩
  rw [nextPc_toNat hz.legal, Nat.mod_mod, Nat.add_mod, h.pc, ← Nat.add_mod]
  rfl

/-- Fewer than HALT_STRIKES cycles pass their words and leave the core running. -/
theorem run_zero_words (hz : s.ZerosAhead) (h0 : s.strikes = 0)
    (hs : s.env.schedule = List.replicate s.cfg.haltStrikes .instructionCycle ++ rest) (hk : k < s.cfg.haltStrikes) :
    ∃ p e, Sys2Proof.core.run k s = .next (s.afterZeroWords k p e) ∧ ZeroWordsPassed s rest k p e := by
  induction k with
  | zero =>
    have hstart : s.afterZeroWords 0 s.pc s.env = s := by rw [← h0]; rfl
    exact ⟨s.pc, s.env, congrArg Host.Outcome.next hstart.symm, rfl, hs⟩
  | succ k ih =>
    obtain ⟨p, e, hrun, hp⟩ := ih (by omega)
    obtain ⟨e', hstep, hp'⟩ := hp.step hz (by omega)
    rw [haltCheck_of_not_struck (Nat.ne_of_lt hk)] at hstep
    exact ⟨_, e', run_snoc hrun hstep, hp'⟩

/-- The cycle that reaches HALT_STRIKES halts the core. -/
theorem run_zero_words_halts (hz : s.ZerosAhead) (h0 : s.strikes = 0)
    (hs : s.env.schedule = List.replicate s.cfg.haltStrikes .instructionCycle ++ rest)
    (hk : k + 1 = s.cfg.haltStrikes) :
    ∃ p e, Sys2Proof.core.run (k + 1) s = .next (s.afterZeroWords (k + 1) (nextPc s.cfg p) e).halt ∧
      p.toNat % s.cfg.memSize = (s.pc.toNat + 2 * k) % s.cfg.memSize ∧
      ZeroWordsPassed s rest (k + 1) (nextPc s.cfg p) e := by
  obtain ⟨p, e, hrun, hp⟩ := run_zero_words hz h0 hs (k := k) (by omega)
  obtain ⟨e', hstep, hp'⟩ := hp.step hz (by omega)
  rw [haltCheck_of_struck hk] at hstep
  exact ⟨p, e', run_snoc hrun hstep, hp.pc, hp'⟩

end

/-! ### O46 and O51 -/

/-- Settles O46: a step that is no cycle leaves the reports, and a cycle reports at most one event. -/
theorem stepReportsAtMostOneEvent : Obligations.StepReportsAtMostOneEvent := by
  intro s t hc h
  obtain hu | ⟨m, rest, hs, hm, he, ht⟩ := step_untouched_or_core h
  · exact .inl hu.diag
  cases m with
  | instructionCycle =>
    have hn := (State.cycleNext_iff hs).2 he
    obtain hd | hevent := runCycle_diag (by simpa using hc) ht
    · exact .inl (by simpa using hd)
    · exact .inr ⟨rest, prevPc s.cfg (nextPc s.cfg s.pc), hn, prevPc_nextPc_toNat hc s.pc, by simpa using hevent⟩
  | keyWaitEnd | timerTick | stopSeen => cases ht; exact .inl (by simp)
  | _ => cases hm

/-- Settles O51: each cycle below HALT_STRIKES passes one word, and the last one halts. -/
theorem consecutiveZeroWordsHalt : Obligations.ConsecutiveZeroWordsHalt := by
  intro s rest hc hr hw hq hs h0 hzero
  have hz : s.ZerosAhead := ⟨hc, hr, hw, hq, hzero⟩
  refine ⟨fun k hk => ?running, ?halts⟩
  case running =>
    obtain ⟨p, e, hrun, -⟩ := run_zero_words hz h0 hs hk
    exact ⟨_, hrun, hr⟩
  case halts =>
    obtain ⟨-, -, -, hpos⟩ := RunConfig.legal_sizes hc
    obtain ⟨k, hk⟩ := Nat.exists_eq_add_one.2 hpos
    obtain ⟨p, e, hrun, hlast, hp⟩ := run_zero_words_halts hz h0 hs hk.symm
    rw [hk]
    have hpc : (nextPc s.cfg p).toNat = (s.pc.toNat + 2 * (k + 1)) % s.cfg.memSize :=
      (Nat.mod_eq_of_lt (nextPc_lt hc p)).symm.trans hp.pc
    have hrest : e.schedule = rest := hp.schedule.trans (by rw [hk, Nat.sub_self]; rfl)
    exact ⟨_, prevPc s.cfg (nextPc s.cfg p), hrun, rfl, rfl, hpc, (prevPc_nextPc_toNat hc p).trans hlast, rfl, rfl,
      rfl, rfl, rfl, rfl, rfl, rfl, rfl, hrest⟩

end Sys2Proof.Machine
end

section
/-! PROOFS. Fairness (spec/60_exceptions.md R181, R206, R210, R212, R241; log 7, log 15): each step takes one move off
the schedule, an empty schedule draws the next round, and the rounds close with the core's four steps in turn (O20). -/
namespace Sys2Proof.Machine

section
variable {s t u : State} {m : Move} {rest l : List Move}

/-! ### What a step leaves of the schedule -/

/-- No move's effect writes the schedule or the count of rounds. -/
theorem Move.effect_schedule (h : m.effect s = .next t) :
    t.env.schedule = s.env.schedule ∧ t.env.rounds = s.env.rounds := by
  cases m with
  | instructionCycle =>
    obtain ⟨b, henv⟩ := runCycle_env h
    rw [henv, State.spendCycle_env]
    exact ⟨rfl, rfl⟩
  | timerTick =>
    cases h
    rw [State.tick_env, State.spendTick_env]
    split <;> exact ⟨rfl, rfl⟩
  | keyWaitEnd | start => cases h; simp
  | _ => cases h; exact ⟨rfl, rfl⟩

theorem Move.passOver_schedule (m : Move) (s : State) :
    (m.passOver s).env.schedule = s.env.schedule ∧ (m.passOver s).env.rounds = s.env.rounds := by
  obtain h | ⟨-, h⟩ := m.passOver_cases s <;> rw [h] <;> exact ⟨rfl, rfl⟩

/-- A step takes the head off the schedule, whether or not the move is enabled (log 6). -/
theorem step_schedule (hs : s.env.schedule = m :: rest) (h : step s = .next t) :
    t.env.schedule = rest ∧ t.env.rounds = s.env.rounds := by
  cases he : m.enabled (s.withSchedule rest) with
  | true => exact Move.effect_schedule ((step_scheduled hs he).symm.trans h)
  | false =>
    cases (step_passed hs he).symm.trans h
    exact m.passOver_schedule (s.withSchedule rest)

/-! ### Which states a run comes to -/

/-- Some run from `s` ends in `t`. -/
def State.Reaches (s t : State) : Prop := ∃ n, Sys2Proof.core.run n s = .next t

theorem State.Reaches.trans (h : s.Reaches t) (h' : t.Reaches u) : s.Reaches u := by
  obtain ⟨a, ha⟩ := h
  obtain ⟨b, hb⟩ := h'
  exact ⟨a + b, (run_add ha).trans hb⟩

theorem State.Reaches.of_step (h : step s = .next t) : s.Reaches t := ⟨1, run_succ h 0⟩

/-- No run stops, since no step does (R71, R190, R192). -/
theorem run_answers_next (n : Nat) (s : State) : ∃ t, Sys2Proof.core.run n s = .next t := by
  induction n generalizing s with
  | zero => exact ⟨s, rfl⟩
  | succ n ih =>
    obtain ⟨t, ht⟩ := stepAlwaysAnswersNext s
    rw [run_succ ht]
    exact ih t

/-- A run comes to what is scheduled after `l`, in the same round. -/
theorem reaches_rest (hs : s.env.schedule = l ++ rest) :
    ∃ t, s.Reaches t ∧ t.env.schedule = rest ∧ t.env.rounds = s.env.rounds := by
  induction l generalizing s with
  | nil => exact ⟨s, ⟨0, rfl⟩, hs, rfl⟩
  | cons m l ih =>
    obtain ⟨u, hu⟩ := stepAlwaysAnswersNext s
    obtain ⟨hsched, hrounds⟩ := step_schedule hs hu
    obtain ⟨t, hreach, ht, hr⟩ := ih hsched
    exact ⟨t, (State.Reaches.of_step hu).trans hreach, ht, hr.trans hrounds⟩

/-- A run comes to the end of what is scheduled. -/
theorem reaches_empty (s : State) : ∃ t, s.Reaches t ∧ t.env.schedule = [] ∧ t.env.rounds = s.env.rounds :=
  reaches_rest (List.append_nil _).symm

/-- A run that has nothing scheduled comes to the step that closes the next round. -/
theorem reaches_closingStep (hs : s.env.schedule = []) :
    ∃ t, s.Reaches t ∧ t.env.schedule = [closingStep s.env.rounds] ∧ t.env.rounds = s.env.rounds + 1 := by
  obtain ⟨t, hreach, ht⟩ := reaches_rest (s := s.drawRound) (l := Config.freeMoves s.env.rounds) rfl
  exact ⟨t, (State.Reaches.of_step (step_empty hs)).trans hreach, ht⟩

/-- A run comes through any number of rounds. -/
theorem reaches_rounds (s : State) (j : Nat) :
    ∃ t, s.Reaches t ∧ t.env.schedule = [] ∧ t.env.rounds = s.env.rounds + j := by
  induction j with
  | zero => exact reaches_empty s
  | succ j ih =>
    obtain ⟨t, hst, ht, hr⟩ := ih
    obtain ⟨u, htu, -, hu⟩ := reaches_closingStep ht
    obtain ⟨w, huw, hw, hrw⟩ := reaches_empty u
    exact ⟨w, (hst.trans htu).trans huw, hw, by rw [hrw, hu, hr, Nat.add_assoc]⟩

/-! ### The core's steps in turn -/

/-- Each of the core's four steps closes a later round. -/
theorem exists_closingStep (hm : isCoreStep m = true) (n : Nat) : ∃ j, closingStep (n + j) = m := by
  have hturn : ∀ i < 4, ∃ j, (n + j) % 4 = i := fun i hi => ⟨i + 3 * n, by omega⟩
  have hclose : ∀ i < 4, ∃ j, closingStep (n + j) = closingStep i := fun i hi => by
    obtain ⟨j, hj⟩ := hturn i hi
    exact ⟨j, by unfold closingStep; rw [hj, Nat.mod_eq_of_lt hi]⟩
  cases m with
  | instructionCycle => exact hclose 0 (by decide)
  | timerTick => exact hclose 1 (by decide)
  | keyWaitEnd => exact hclose 2 (by decide)
  | stopSeen => exact hclose 3 (by decide)
  | _ => cases hm

/-- A run comes to a state where the given one of the core's four steps is next. -/
theorem reaches_coreStep (hm : isCoreStep m = true) (s : State) : ∃ t, s.Reaches t ∧ t.env.schedule = [m] := by
  obtain ⟨j, hj⟩ := exists_closingStep hm s.env.rounds
  obtain ⟨t, hst, ht, hr⟩ := reaches_rounds s j
  obtain ⟨u, htu, hu, -⟩ := reaches_closingStep ht
  rw [hr, hj] at hu
  exact ⟨u, hst.trans htu, hu⟩

/-- In a running core with no key wait and no stop pending a cycle and a tick are enabled (R208, R212). -/
theorem Move.enabled_of_running (hm : m = .instructionCycle ∨ m = .timerTick) (hr : s.run = .running)
    (hw : s.wait = none) (hq : s.stopReq = false) : m.enabled s = true := by
  obtain rfl | rfl := hm <;> simp [Move.enabled, hr, hw, hq]

end

/-- Settles O20: after the given steps the run goes on to the next round that the given step of the core closes. -/
theorem coreStepsKeepComing : Obligations.CoreStepsKeepComing := by
  intro s m steps hm
  obtain ⟨t, ht⟩ := run_answers_next steps s
  obtain ⟨u, ⟨n, hn⟩, hu⟩ := reaches_coreStep hm t
  exact ⟨steps + n, u, [], Nat.le_add_right .., (run_add ht).trans hn, hu,
    fun hcore hr hw hq => step_scheduled hu (Move.enabled_of_running (s := u.withSchedule []) hcore hr hw hq)⟩

end Sys2Proof.Machine
end

section
/-! PROOFS. The timers (spec/60_exceptions.md R208, R213, R241): what a cycle writes to DT and ST, and that no other step
raises them (O45). -/
namespace Sys2Proof.Machine

section
variable {i : Instr} {s t : State}

/-- FX15 aside, the execute phase leaves DT (R183). -/
theorem exec_dt_cases (h : exec i s = .next t) : t.dt = s.dt ∨ ∃ x, i = .ldDtVx x ∧ t.dt = s.v[x] := by
  by_cases hi : ∃ x, i = .ldDtVx x
  · obtain ⟨x, rfl⟩ := hi
    cases h
    exact .inr ⟨x, rfl, rfl⟩
  · exact .inl (exec_dt h (not_exists.1 hi))

/-- FX18 aside, the execute phase leaves ST (R184). -/
theorem exec_st_cases (h : exec i s = .next t) : t.st = s.st ∨ ∃ x, i = .ldStVx x ∧ t.st = s.v[x] := by
  by_cases hi : ∃ x, i = .ldStVx x
  · obtain ⟨x, rfl⟩ := hi
    cases h
    exact .inr ⟨x, rfl, rfl⟩
  · exact .inl (exec_st h (not_exists.1 hi))

/-- The fetch and the halt check leave the timers, so a cycle does to them what its instruction does (R98). -/
theorem runCycle_timers (h : runCycle s = .next t) :
    (t.dt = s.dt ∨ ∃ x, decodeWord s.nextWord = .ldDtVx x ∧ t.dt = s.v[x]) ∧
      (t.st = s.st ∨ ∃ x, decodeWord s.nextWord = .ldStVx x ∧ t.st = s.v[x]) := by
  obtain ⟨u, hu, rfl⟩ := runCycle_cases h
  simpa using And.intro (exec_dt_cases hu) (exec_st_cases hu)

theorem tickDown_toNat_le (b : Byte) : (tickDown b).toNat ≤ b.toNat :=
  (tickDown_toNat b).trans_le (Nat.sub_le ..)

end

/-- Settles O45: a tick only lowers the timers, and of the other steps a cycle alone writes them, by FX15 and FX18. -/
theorem timersRiseOnlyByWrites : Obligations.TimersRiseOnlyByWrites := by
  intro s t h
  obtain hu | ⟨m, rest, hs, hm, he, ht⟩ := step_untouched_or_core h
  · exact ⟨.inl (by rw [hu.dt]), .inl (by rw [hu.st])⟩
  cases m with
  | instructionCycle =>
    have hn := (State.cycleNext_iff hs).2 he
    obtain ⟨hdt, hst⟩ := runCycle_timers ht
    simp only [State.cycleStart_eq] at hdt hst
    exact ⟨hdt.imp (fun hd => by rw [hd]) fun ⟨x, hw, hx⟩ => ⟨rest, x, hn, hw, hx⟩,
      hst.imp (fun hd => by rw [hd]) fun ⟨x, hw, hx⟩ => ⟨rest, x, hn, hw, hx⟩⟩
  | timerTick =>
    cases ht
    exact ⟨.inl (by simpa using tickDown_toNat_le s.dt), .inl (by simpa using tickDown_toNat_le s.st)⟩
  | keyWaitEnd | stopSeen => cases ht; exact ⟨.inl (by simp), .inl (by simp)⟩
  | _ => cases hm

end Sys2Proof.Machine
end
